-- ==== Sys2Proof/Word.lean ====
section
/-! DEFINITION. The byte, the unit in which the transport answers and the host writes `CMD` (00_scope.md R7). -/

namespace Sys2Proof

/-- A byte is 8 bits (00_scope.md R7). -/
abbrev Byte := BitVec 8

end Sys2Proof
end

