-- ==== Sys2Proof/Config.lean ====
section
/-! DEFINITION. What an instance of the block takes as arguments (00_scope.md R6) and the free values the spec leaves
open: the transport's answers (20_memory.md R42) and the results of an overflow under `anyvalue`
(42_compensation.md R90). -/

namespace Sys2Proof

/-- `OVF_POLICY` (00_scope.md R6, 42_compensation.md R90). -/
inductive OvfPolicy where
  | wrap
  | anyvalue
deriving DecidableEq, Repr

/-- The implementation parameters of 00_scope.md R6. They are a field of `State` that no step changes, so that a
statement about every state is about every value of them (log entry 4). -/
structure Params where
  /-- `DEV_ADDR`: the sensor's 7-bit device address. -/
  devAddr : BitVec 7
  /-- `ID_EXPECTED`: the identity byte `IDCHK` compares with. -/
  idExpected : Byte
  /-- `REG_ID`. -/
  regId : Byte
  /-- `REG_CAL_TP`: the 24-byte temperature and pressure calibration. -/
  regCalTp : Byte
  /-- `REG_CAL_H1`: the one-byte humidity calibration. -/
  regCalH1 : Byte
  /-- `REG_CAL_H`: the 7-byte humidity calibration. -/
  regCalH : Byte
  /-- `REG_DATA`: the 8 data bytes. -/
  regData : Byte
  /-- `SINGLE_BURST`: whether the device supports the 8-byte burst (30_encoding.md R66). -/
  singleBurst : Bool
  /-- `H45_SIGNED`: whether H4 and H5 are sign-extended (40_calibration.md R78, R79). -/
  h45Signed : Bool
  /-- `OVF_POLICY`. -/
  ovfPolicy : OvfPolicy
  /-- `REG_ADDR_WIDTH`: the width of a sensor register address, in bits. -/
  regAddrWidth : Nat
deriving DecidableEq, Repr

/-- The defaults of 00_scope.md R6. PRESUMED (log entry 4): the addresses, the identity value, `SINGLE_BURST` and
`REG_ADDR_WIDTH` are the spec's own values "from general knowledge, not in source"; unsafe. -/
def Params.default : Params where
  devAddr := 0x76#7
  idExpected := 0x60#8
  regId := 0xD0#8
  regCalTp := 0x88#8
  regCalH1 := 0xA1#8
  regCalH := 0xE1#8
  regData := 0xF7#8
  singleBurst := true
  h45Signed := true
  ovfPolicy := .wrap
  regAddrWidth := 8

namespace Config

/-- FREE VALUE (log entry 2): the transport's answer number `k`, of any length and any bytes (20_memory.md R42). -/
opaque anyReply : Nat → List Byte

/-- FREE VALUE (log entry 3): what `T_OUT` receives from an overflowing `CompT` under `anyvalue` (R90). -/
opaque anyTemperature : Nat → BitVec 32

/-- FREE VALUE (log entry 3): what `P_OUT` receives from an overflowing `CompP` under `anyvalue` (R90). -/
opaque anyPressure : Nat → BitVec 64

/-- FREE VALUE (log entry 3): what `H_OUT` receives from an overflowing `CompH` under `anyvalue`; R90 keeps it in
0 .. 102400. -/
opaque anyHumidity : Nat → Fin 102401

end Config

end Sys2Proof
end

