-- ==== Sys2Proof/Syntax.lean ====
section
/-! DEFINITION. The nine commands of spec/opcode_table.json (30_encoding.md R65). No command has an operand in its word
(30_encoding.md R64), so no constructor has an argument. -/

namespace Sys2Proof

/-- One constructor per row of the opcode map (30_encoding.md R65). A word that is none of them is `ILLEGAL`, which the
decoder rejects by name and the step answers with `Sys2Proof.Machine.execIllegal` (30_encoding.md R67). -/
inductive Instr where
  /-- `IDCHK`: read and check the identity byte (40_calibration.md R82). -/
  | idchk
  /-- `LDCAL`: read and decode all calibration constants (40_calibration.md R83). -/
  | ldcal
  /-- `LDRAW`: read the raw sample as one 8-byte burst (41_raw_sample.md R86). -/
  | ldraw
  /-- `LDRAW.S`: read the raw sample as bursts of 3, 3 and 2 bytes (41_raw_sample.md R87). -/
  | ldrawS
  /-- `COMPT`: temperature compensation (42_compensation.md R92). -/
  | compt
  /-- `COMPP`: pressure compensation (42_compensation.md R94). -/
  | compp
  /-- `COMPH`: humidity compensation (42_compensation.md R97). -/
  | comph
  /-- `MEAS`: 8-byte raw read, then T, P and H (43_measure.md R100). -/
  | meas
  /-- `MEAS.S`: split raw read, then T, P and H (43_measure.md R101). -/
  | measS
deriving DecidableEq, Repr

end Sys2Proof
end

