-- ==== Sys2Proof/WellFormed.lean ====
section
/-! DEFINITION. Which commands an instance has, by its parameter `SINGLE_BURST` (30_encoding.md R66), and which
parameters keep every burst inside the sensor's register space. -/

namespace Sys2Proof

/-- A command exists on an instance: the two 8-byte forms only where the device supports single-burst capture
(30_encoding.md R66, last conjunct). -/
def Instr.wellFormed (singleBurst : Bool) : Instr → Bool
  | .idchk => true
  | .ldcal => true
  | .ldraw => singleBurst
  | .ldrawS => true
  | .compt => true
  | .compp => true
  | .comph => true
  | .meas => singleBurst
  | .measS => true

/-- Every burst of 20_memory.md R46 stays below `2 ^ REG_ADDR_WIDTH`. What lies past the end of the sensor register
space is not in the spec (91_not_in_source.md N17, log entry 7). -/
def Params.wellFormed (p : Params) : Bool :=
  decide (p.regId.toNat + 1 ≤ 2 ^ p.regAddrWidth) &&
  decide (p.regCalTp.toNat + 24 ≤ 2 ^ p.regAddrWidth) &&
  decide (p.regCalH1.toNat + 1 ≤ 2 ^ p.regAddrWidth) &&
  decide (p.regCalH.toNat + 7 ≤ 2 ^ p.regAddrWidth) &&
  decide (p.regData.toNat + 8 ≤ 2 ^ p.regAddrWidth)

end Sys2Proof
end

