-- ==== Sys2Proof/Decode.lean ====
section
/-! DEFINITION. The decoder of a command word, total on every byte (30_encoding.md R63, R66, R69), and the encoder from
the opcode map (30_encoding.md R65). -/

namespace Sys2Proof

/-- Why a word is illegal (30_encoding.md R66, R68). Every reason has the one effect of R67; the names only say which
conjunct of `legal` the word fails, first one first. -/
inductive Illegal where
  /-- `RSV` is not 000. -/
  | reservedBits
  /-- `OP` is 0x0 or 0x8 .. 0xF. -/
  | reservedOp
  /-- `S` is 1 with an `OP` other than 0x3 and 0x7. -/
  | splitNotAllowed
  /-- An 8-byte form on a device without single-burst capture. -/
  | noSingleBurst
deriving DecidableEq, Repr

/-- `OP`, bits [3:0] (30_encoding.md R63). -/
def opField (w : Byte) : BitVec 4 := w.extractLsb' 0 4

/-- `S`, bit [4] (30_encoding.md R63). -/
def splitField (w : Byte) : Bool := w.getLsbD 4

/-- `RSV`, bits [7:5] (30_encoding.md R63). -/
def reservedField (w : Byte) : BitVec 3 := w.extractLsb' 5 3

/-- The operations that have two raw-read forms: `OP` in {0x3, 0x7} (30_encoding.md R66). -/
def readsSample (op : BitVec 4) : Bool := op == 0x3#4 || op == 0x7#4

/-- `legal(w)` of 30_encoding.md R66, conjunct by conjunct. -/
def legal (singleBurst : Bool) (w : Byte) : Bool :=
  reservedField w == 0#3 &&
  (decide (1 ≤ (opField w).toNat) && decide ((opField w).toNat ≤ 7)) &&
  (!splitField w || readsSample (opField w)) &&
  !(!splitField w && readsSample (opField w) && !singleBurst)

/-- `decode` of 30_encoding.md R69. A word that is not legal is `ILLEGAL`, rejected with its reason. -/
def decode (singleBurst : Bool) (w : Byte) : Except Illegal Instr :=
  if reservedField w ≠ 0#3 then .error .reservedBits
  else
    match (opField w).toNat, splitField w with
    | 1, false => .ok .idchk
    | 2, false => .ok .ldcal
    | 3, false => if singleBurst then .ok .ldraw else .error .noSingleBurst
    | 3, true => .ok .ldrawS
    | 4, false => .ok .compt
    | 5, false => .ok .compp
    | 6, false => .ok .comph
    | 7, false => if singleBurst then .ok .meas else .error .noSingleBurst
    | 7, true => .ok .measS
    | 1, true | 2, true | 4, true | 5, true | 6, true => .error .splitNotAllowed
    | _, _ => .error .reservedOp

/-- A word from its three fields (30_encoding.md R63). -/
def fieldsWord (split : Bool) (op : BitVec 4) : Byte := 0#3 ++ BitVec.ofBool split ++ op

/-- The command word of each row of 30_encoding.md R65, from its `OP` and `S`. -/
def encode : Instr → Byte
  | .idchk => fieldsWord false 0x1#4
  | .ldcal => fieldsWord false 0x2#4
  | .ldraw => fieldsWord false 0x3#4
  | .ldrawS => fieldsWord true 0x3#4
  | .compt => fieldsWord false 0x4#4
  | .compp => fieldsWord false 0x5#4
  | .comph => fieldsWord false 0x6#4
  | .meas => fieldsWord false 0x7#4
  | .measS => fieldsWord true 0x7#4

/-- The instruction the decoder reads from a word of the opcode table, with the default `SINGLE_BURST` = true
(00_scope.md R6, log entry 4). Every command is one byte long (30_encoding.md R63). -/
def decodeTableWord (nbits w : Nat) : Option Instr :=
  if nbits ≤ 8 ∧ w < 2 ^ 8 then (decode Params.default.singleBurst (BitVec.ofNat 8 w)).toOption else none

end Sys2Proof
end

