-- ==== Sys2Proof/Machine/State.lean ====
section
/-! DEFINITION. The state of the block and of the two agents around it (00_scope.md R2, 10_state.md), as plain data, and
its reset (10_state.md R41, 70_reset_and_hazards.md R115). -/

namespace Sys2Proof.Machine

/-- `STATUS.IDST` (10_state.md R31, R32). The value 11 is never produced and has no constructor. -/
inductive IdState where
  | unchecked
  | ok
  | mismatch
deriving DecidableEq, Repr

/-- `STATUS.ERR` (60_exceptions.md R105). The codes 7 .. 15 are never produced and have no constructor. -/
inductive ErrCode where
  | ok
  | transport
  | nodev
  | notready
  | noraw
  | staleft
  | illegal
deriving DecidableEq, Repr

/-- The stored fields of `STATUS` (10_state.md R31). Bits [7] and [15:12] are hardwired to 0 and are not stored:
`statusWord` reads the whole register. -/
structure Status where
  idst : IdState
  calValid : Bool
  rawValid : Bool
  ftValid : Bool
  degen : Bool
  ovf : Bool
  err : ErrCode
deriving DecidableEq, Repr

/-- The eighteen registers of the Calibration Store (10_state.md R24). Each field is the register's bits; `t1`, `p1`,
`h1`, `h3` are read unsigned, the others as two's complement. -/
structure Calibration where
  t1 : BitVec 16
  t2 : BitVec 16
  t3 : BitVec 16
  p1 : BitVec 16
  p2 : BitVec 16
  p3 : BitVec 16
  p4 : BitVec 16
  p5 : BitVec 16
  p6 : BitVec 16
  p7 : BitVec 16
  p8 : BitVec 16
  p9 : BitVec 16
  h1 : BitVec 8
  h2 : BitVec 16
  h3 : BitVec 8
  h4 : BitVec 16
  h5 : BitVec 16
  h6 : BitVec 8
deriving DecidableEq, Repr

/-- `RAW_P`, `RAW_T` and `RAW_H` (10_state.md R26). -/
structure RawSample where
  p : BitVec 20
  t : BitVec 20
  h : BitVec 16
deriving DecidableEq, Repr

/-- One `TransportRead(reg, n)` as the transport sees it (20_memory.md R42, R58). The register address is a number, so
that `REG_DATA + 6` is exactly that (log entry 7). -/
structure BurstRequest where
  dev : BitVec 7
  reg : Nat
  len : Nat
deriving DecidableEq, Repr

/-- The Bus Transport as an agent (00_scope.md R2, 20_memory.md R42). MODEL'S OWN layout (log entry 2). -/
structure Bus where
  /-- The answers still to come, oldest first; past them each answer is a free value. -/
  replies : List (List Byte)
  /-- The bursts it was asked for, oldest first. -/
  requests : List BurstRequest
deriving DecidableEq, Repr

/-- What a Host read returns (10_state.md R38): the register's whole value at its type, and the register's width. -/
structure HostValue where
  width : Nat
  value : Int
deriving DecidableEq, Repr

/-- One action of the Host's program (10_state.md R23, R38, R39; 30_encoding.md R71). -/
inductive HostAction where
  /-- Write a byte to a register index. -/
  | write (index value : Byte)
  /-- Read the register at an index. -/
  | read (index : Byte)
  /-- A pseudo-instruction's words, written to `CMD` one after another until one leaves `ERR` other than OK. -/
  | sequence (words : List Byte)
deriving DecidableEq, Repr

/-- The Host as an agent (00_scope.md R2). MODEL'S OWN layout (log entry 5). -/
structure HostAgent where
  /-- The Host's program still to come, first action first. -/
  pending : List HostAction
  /-- What its last read returned. -/
  received : Option HostValue
deriving DecidableEq, Repr

/-- The whole machine. `none` in a data register is the spec's `⊥` (00_scope.md R21, 10_state.md R41; log entry 1).
There is no general register, program counter or memory (10_state.md R22, R23, R36). -/
structure State where
  /-- The instance's parameters (00_scope.md R6); no step changes them. -/
  params : Params
  /-- `STATUS` (10_state.md R31). -/
  status : Status
  /-- `CAL_T1` .. `CAL_H6`, written only together (10_state.md R24, R25). -/
  cal : Option Calibration
  /-- `RAW_P`, `RAW_T`, `RAW_H`, written only together (10_state.md R26). -/
  raw : Option RawSample
  /-- `T_FINE` (10_state.md R27). -/
  tFine : Option (BitVec 32)
  /-- `T_OUT` (10_state.md R28). -/
  tOut : Option (BitVec 32)
  /-- `P_OUT` (10_state.md R28). -/
  pOut : Option (BitVec 64)
  /-- `H_OUT` (10_state.md R28). -/
  hOut : Option (BitVec 32)
  /-- `ID_LAST` (10_state.md R29). -/
  idLast : Option Byte
  /-- The Bus Transport. -/
  bus : Bus
  /-- How many free values were drawn (log entries 2 and 3); the model's own counter. -/
  draws : Nat
  /-- The Host. -/
  host : HostAgent
deriving DecidableEq, Repr

/-- `STATUS` after reset: 0x0000 (10_state.md R41). -/
def Status.reset : Status where
  idst := .unchecked
  calValid := false
  rawValid := false
  ftValid := false
  degen := false
  ovf := false
  err := .ok

/-- An instance with parameters `p` right after reset (10_state.md R41, 70_reset_and_hazards.md R115): `STATUS` reads 0,
every data register is `⊥`, the Engine is idle. The agents' own fields start empty (log entries 2, 3, 5). -/
def State.resetWith (p : Params) : State where
  params := p
  status := Status.reset
  cal := none
  raw := none
  tFine := none
  tOut := none
  pOut := none
  hOut := none
  idLast := none
  bus := { replies := [], requests := [] }
  draws := 0
  host := { pending := [], received := none }

/-- The machine right after reset, with the spec's default parameters (00_scope.md R6, log entry 4). -/
def State.reset : State := State.resetWith Params.default

/-- Why a run stops with a fault. -/
inductive Fault where
  /-- A compensation command would read a register that holds `⊥`. Raised by `COMPT`, `COMPP`, `COMPH`, `MEAS` and
  `MEAS.S`, only in states that break 10_state.md R35, which no run from reset reaches (00_scope.md R21). Safe: the
  model stops where the spec says no command ever is (log entry 1). -/
  | bottomRead
deriving DecidableEq, Repr

/-- Why a step does not happen. -/
inductive Refusal where
  /-- An instruction without a meaning yet. No arm of `exec` raises it: every row of the opcode table has its meaning.
  Safe. -/
  | notModelled (mnemonic : String)
  /-- A Host read of a register that holds `⊥`, which the spec refuses: "a model gives them no result and the Host step
  does not happen". Raised by the Host's read (10_state.md R38, 00_scope.md R21, 93_implementation_defined.md rows 12 and
  21). Safe. -/
  | hostReadBottom
  /-- A Host read of `CMD`, which is write-only. Raised by the Host's read (10_state.md R30, R38). Safe. -/
  | hostReadCommand
  /-- A Host read of an unmapped index. Raised by the Host's read (10_state.md R38). Safe. -/
  | hostReadUnmapped
  /-- A Host write to an index other than that of `CMD`. Raised by the Host's write (10_state.md R39). Safe. -/
  | hostWriteRefused
deriving DecidableEq, Repr

end Sys2Proof.Machine
end

