-- ==== Sys2Proof/Machine/Flags.lean ====
section
/-! DEFINITION. `STATUS`: its word (10_state.md R31), the clears at the start of every command (R34), the checks of the
persistent flags that gate a command (R32, R33, 42_compensation.md R88) and the writes of single fields. -/

namespace Sys2Proof.Machine

/-- The code of `IDST` (10_state.md R31). -/
def idCode : IdState → BitVec 2
  | .unchecked => 0b00#2
  | .ok => 0b01#2
  | .mismatch => 0b10#2

/-- The code of `ERR` (60_exceptions.md R105). -/
def errCode : ErrCode → BitVec 4
  | .ok => 0#4
  | .transport => 1#4
  | .nodev => 2#4
  | .notready => 3#4
  | .noraw => 4#4
  | .staleft => 5#4
  | .illegal => 6#4

/-- The 16 bits of `STATUS` (10_state.md R31), from bit 15 down: reserved [15:12], `ERR` [11:8], reserved [7], `OVF` [6],
`DEGEN` [5], `FT_VALID` [4], `RAW_VALID` [3], `CAL_VALID` [2], `IDST` [1:0]. -/
def statusWord (st : Status) : BitVec 16 :=
  0#4 ++ errCode st.err ++ 0#1 ++ BitVec.ofBool st.ovf ++ BitVec.ofBool st.degen ++ BitVec.ofBool st.ftValid ++
    BitVec.ofBool st.rawValid ++ BitVec.ofBool st.calValid ++ idCode st.idst

/-- The start of every command, an illegal one too: `ERR`, `OVF` and `DEGEN` <- 0 (10_state.md R34). -/
def beginCommand (s : State) : State :=
  { s with status := { s.status with err := .ok, ovf := false, degen := false } }

/-- `x[STATUS].ERR <- e`. -/
def setErr (e : ErrCode) (s : State) : State := { s with status := { s.status with err := e } }

/-- `x[STATUS].IDST <- v`. -/
def setIdst (v : IdState) (s : State) : State := { s with status := { s.status with idst := v } }

/-- `x[STATUS].CAL_VALID <- v`. -/
def setCalValid (v : Bool) (s : State) : State := { s with status := { s.status with calValid := v } }

/-- `x[STATUS].RAW_VALID <- v`. -/
def setRawValid (v : Bool) (s : State) : State := { s with status := { s.status with rawValid := v } }

/-- `x[STATUS].FT_VALID <- v`. -/
def setFtValid (v : Bool) (s : State) : State := { s with status := { s.status with ftValid := v } }

/-- `x[STATUS].DEGEN <- v`. -/
def setDegen (v : Bool) (s : State) : State := { s with status := { s.status with degen := v } }

/-- A compensation function's `ovf` joins `STATUS.OVF` (00_scope.md R15). The start of the command cleared `OVF` (R34),
so `COMPT`, `COMPP` and `COMPH` write their function's indicator and `MEAS` the OR of the three (43_measure.md R100). -/
def joinOvf (v : Bool) (s : State) : State := { s with status := { s.status with ovf := s.status.ovf || v } }

/-- The check of `LDRAW` and `LDRAW.S` (41_raw_sample.md R86): OK, or the code to raise. -/
def gateRaw (st : Status) : ErrCode := if st.idst = .mismatch then .notready else .ok

/-- The check of `MEAS` and `MEAS.S` (43_measure.md R100): the first of 42_compensation.md R88. -/
def gateReady (st : Status) : ErrCode := if st.idst = .mismatch ∨ st.calValid = false then .notready else .ok

/-- The check of `COMPT` (42_compensation.md R88, steps 1 and 2). -/
def gateTemperature (st : Status) : ErrCode :=
  if st.idst = .mismatch ∨ st.calValid = false then .notready
  else if st.rawValid = false then .noraw
  else .ok

/-- The check of `COMPP` and `COMPH` (42_compensation.md R88, steps 1 to 3). -/
def gateFine (st : Status) : ErrCode :=
  if st.idst = .mismatch ∨ st.calValid = false then .notready
  else if st.rawValid = false then .noraw
  else if st.ftValid = false then .staleft
  else .ok

end Sys2Proof.Machine
end

