-- ==== Sys2Proof/Machine/Operands.lean ====
section
/-! DEFINITION. The operand forms of the block: how registers are read from the bytes of a burst. The calibration's
extraction functions (40_calibration.md R72 to R81) and the raw sample's packing functions (41_raw_sample.md R84,
R85), over the burst layouts of 20_memory.md R47 to R51. -/

namespace Sys2Proof.Machine

/-- `u16le(b, i)` (40_calibration.md R72): the byte at the lower index is the less significant one. -/
def u16le {n : Nat} (b : Vector Byte n) (i : Nat) (h : i + 1 < n := by decide) : BitVec 16 := b[i + 1] ++ b[i]

/-- `s16le(b, i)` (40_calibration.md R73): the same 16 bits, which a signed register reads as two's complement. -/
def s16le {n : Nat} (b : Vector Byte n) (i : Nat) (h : i + 1 < n := by decide) : BitVec 16 := u16le b i h

/-- The low nibble of a byte, `b[3:0]` (00_scope.md R7). -/
def lowNibble (b : Byte) : BitVec 4 := b.extractLsb' 0 4

/-- The high nibble of a byte, `b[7:4]` (00_scope.md R7). -/
def highNibble (b : Byte) : BitVec 4 := b.extractLsb' 4 4

/-- A 12-bit constant taken into its 16-bit register, by `H45_SIGNED` (40_calibration.md R78, R79). -/
def extend12 (h45Signed : Bool) (v : BitVec 12) : BitVec 16 := if h45Signed then v.signExtend 16 else v.setWidth 16

/-- H4 (40_calibration.md R78): `h[3] : h[4][3:0]`. -/
def decodeH4 (h45Signed : Bool) (h : Vector Byte 7) : BitVec 16 := extend12 h45Signed (h[3] ++ lowNibble h[4])

/-- H5 (40_calibration.md R79): `h[5] : h[4][7:4]`. -/
def decodeH5 (h45Signed : Bool) (h : Vector Byte 7) : BitVec 16 := extend12 h45Signed (h[5] ++ highNibble h[4])

/-- `DecodeCal(tp, h1, h)` (40_calibration.md R81): all eighteen constants, from R74 to R80. -/
def decodeCal (h45Signed : Bool) (tp : Vector Byte 24) (h1 : Vector Byte 1) (h : Vector Byte 7) : Calibration where
  t1 := u16le tp 0
  t2 := s16le tp 2
  t3 := s16le tp 4
  p1 := u16le tp 6
  p2 := s16le tp 8
  p3 := s16le tp 10
  p4 := s16le tp 12
  p5 := s16le tp 14
  p6 := s16le tp 16
  p7 := s16le tp 18
  p8 := s16le tp 20
  p9 := s16le tp 22
  h1 := h1[0]
  h2 := s16le h 0
  h3 := h[2]
  h4 := decodeH4 h45Signed h
  h5 := decodeH5 h45Signed h
  h6 := h[6]

/-- `Pack20(msb, lsb, xlsb)` (41_raw_sample.md R84). -/
def pack20 (msb lsb xlsb : Byte) : BitVec 20 := msb ++ lsb ++ highNibble xlsb

/-- `Pack16(msb, lsb)` (41_raw_sample.md R85). -/
def pack16 (msb lsb : Byte) : BitVec 16 := msb ++ lsb

/-- The raw sample of one 8-byte burst (20_memory.md R50, 41_raw_sample.md R86). -/
def packSingle (d : Vector Byte 8) : RawSample where
  p := pack20 d[0] d[1] d[2]
  t := pack20 d[3] d[4] d[5]
  h := pack16 d[6] d[7]

/-- The raw sample of three bursts (20_memory.md R51, 41_raw_sample.md R87). -/
def packSplit (dp dt : Vector Byte 3) (dh : Vector Byte 2) : RawSample where
  p := pack20 dp[0] dp[1] dp[2]
  t := pack20 dt[0] dt[1] dt[2]
  h := pack16 dh[0] dh[1]

end Sys2Proof.Machine
end

