-- ==== Sys2Proof/Machine/Ops.lean ====
section
/-! DEFINITION. The shared operations of the commands: asking the transport (20_memory.md R42, R43), ending a command
with an error (00_scope.md R20), an illegal word (30_encoding.md R67) and the free value of an overflow
(42_compensation.md R90).

Taking an exception: the block has no trap (60_exceptions.md R109). Its one exceptional end is `raise`, which saves no
state, changes no mode and goes nowhere but to the next command; there is no return from it (60_exceptions.md R110). -/

namespace Sys2Proof.Machine

/-- `raise E` (00_scope.md R20, 60_exceptions.md R106): the command ends with `ERR` <- E and nothing else written. -/
def raise (e : ErrCode) (s : State) : State := setErr e s

/-- An illegal command word (30_encoding.md R67): the clears of 10_state.md R34, then `raise ILLEGAL`. -/
def execIllegal (s : State) : Host.Outcome State Fault Refusal := .next (raise .illegal (beginCommand s))

/-- The transport's next answer (20_memory.md R42): the oldest one that State holds, or a free value (log entry 2). -/
def nextReply (s : State) : List Byte :=
  match s.bus.replies with
  | bs :: _ => bs
  | [] => Config.anyReply s.draws

/-- The state after the transport answered: the answer is gone and the request is noted. -/
def noteRequest (reg n : Nat) (s : State) : State :=
  { s with
    bus := { replies := s.bus.replies.tail
             requests := s.bus.requests ++ [{ dev := s.params.devAddr, reg := reg, len := n }] }
    draws := if s.bus.replies = [] then s.draws + 1 else s.draws }

/-- The `n` bytes the block uses of an answer, or none for a short read (20_memory.md R42, R43): a longer answer is cut
to its first `n` bytes. -/
def takeBurst (n : Nat) (bs : List Byte) : Option (Vector Byte n) :=
  if h : n ≤ bs.length then some ⟨(bs.take n).toArray, by simp [h]⟩ else none

/-- `TransportRead(reg, n)` (20_memory.md R42): the bytes, or none for a short read, and the state after it. -/
def readBurst (reg n : Nat) (s : State) : Option (Vector Byte n) × State :=
  (takeBurst n (nextReply s), noteRequest reg n s)

/-- Whether a compensation function's outputs are free (42_compensation.md R90): it overflowed, under `anyvalue`. -/
def drawsResult (ovf : Bool) (s : State) : Bool := ovf && decide (s.params.ovfPolicy = .anyvalue)

/-- What an output register receives (42_compensation.md R90): the computed value, or a draw. -/
def outputValue {w : Nat} (free : Bool) (draw : Nat → BitVec w) (computed : BitVec w) (s : State) : BitVec w :=
  if free then draw s.draws else computed

/-- The free values of one compensation function were drawn. -/
def noteDraw (free : Bool) (s : State) : State := { s with draws := if free then s.draws + 1 else s.draws }

/-- The draw of `H_OUT`, in 0 .. 102400 (42_compensation.md R90). -/
def humidityDraw (k : Nat) : BitVec 32 := BitVec.ofNat 32 (Config.anyHumidity k).val

end Sys2Proof.Machine
end

