-- ==== Sys2Proof/Machine/Calibration.lean ====
section
/-! DEFINITION. The Calibration Store commands `IDCHK` and `LDCAL` (40_calibration.md R82, R83). -/

namespace Sys2Proof.Machine

/-- `IDCHK` from its transport read on (40_calibration.md R82). -/
def checkIdentity (answer : Option (Vector Byte 1)) (s : State) : State :=
  match answer with
  | none => raise .transport s
  | some bs =>
    if bs[0] = s.params.idExpected then setIdst .ok { s with idLast := some bs[0] }
    else raise .nodev (setIdst .mismatch { s with idLast := some bs[0] })

/-- `IDCHK` (40_calibration.md R82). -/
def execIdchk (s : State) : Host.Outcome State Fault Refusal :=
  let (answer, s) := readBurst s.params.regId.toNat 1 (beginCommand s)
  .next (checkIdentity answer s)

/-- A short read during `LDCAL` (40_calibration.md R83): `CAL_VALID` <- 0 and TRANSPORT; the Store is left alone. -/
def calibrationFailed (s : State) : State := raise .transport (setCalValid false s)

/-- The three bursts of `LDCAL` in their order, stopping at the first short one (40_calibration.md R83). -/
def loadCalibration (s : State) : State :=
  match readBurst s.params.regCalTp.toNat 24 s with
  | (none, s) => calibrationFailed s
  | (some tp, s) =>
    match readBurst s.params.regCalH1.toNat 1 s with
    | (none, s) => calibrationFailed s
    | (some h1, s) =>
      match readBurst s.params.regCalH.toNat 7 s with
      | (none, s) => calibrationFailed s
      | (some h, s) => setCalValid true { s with cal := some (decodeCal s.params.h45Signed tp h1 h) }

/-- `LDCAL` (40_calibration.md R83). -/
def execLdcal (s : State) : Host.Outcome State Fault Refusal :=
  .next (loadCalibration (setFtValid false (beginCommand s)))

end Sys2Proof.Machine
end

