-- ==== Sys2Proof/Machine/Arith.lean ====
section
/-! DEFINITION. The arithmetic primitives of the compensation engine (00_scope.md R10 to R18): exact integers, narrowed
to width `n`, with the sticky overflow indicator of R15 handed from primitive to primitive. -/

namespace Sys2Proof.Machine

/-- `wrap_N(x)` (00_scope.md R10): the value of the `sN` range congruent to `x` modulo `2^N`. -/
def wrap (n : Nat) (x : Int) : Int := x.bmod (2 ^ n)

/-- `x` lies in the `sN` range (00_scope.md R8). -/
def inRange (n : Nat) (x : Int) : Bool := decide (-2 ^ (n - 1) ≤ x) && decide (x < 2 ^ (n - 1))

/-- The exact result `x` at width `n`, and the indicator `o` set when `x` is out of range (00_scope.md R11, R15). -/
def narrow (n : Nat) (x : Int) (o : Bool) : Int × Bool := (wrap n x, o || !inRange n x)

/-- `add_N` (00_scope.md R11). -/
def addN (n : Nat) (a b : Int) (o : Bool) : Int × Bool := narrow n (a + b) o

/-- `sub_N` (00_scope.md R11). -/
def subN (n : Nat) (a b : Int) (o : Bool) : Int × Bool := narrow n (a - b) o

/-- `mul_N` (00_scope.md R11). -/
def mulN (n : Nat) (a b : Int) (o : Bool) : Int × Bool := narrow n (a * b) o

/-- `shl_N` (00_scope.md R12): multiplication by `2^k`, for negative values too. -/
def shlN (n : Nat) (a : Int) (k : Nat) (o : Bool) : Int × Bool := narrow n (a * 2 ^ k) o

/-- `asr_N` (00_scope.md R13): the floor of `a / 2^k`, at either width; it never overflows. -/
def asrN (a : Int) (k : Nat) : Int := a / 2 ^ k

/-- `div_N` (00_scope.md R14): the quotient truncated toward zero. It takes a proof that the divisor is not 0, so that
`div_N(_, 0)` cannot be evaluated. -/
def divN (n : Nat) (a b : Int) (_nonzero : b ≠ 0) (o : Bool) : Int × Bool := narrow n (a.tdiv b) o

/-- `clamp(v, lo, hi)` (00_scope.md R18). -/
def clamp (v lo hi : Int) : Int := if v < lo then lo else if v > hi then hi else v

end Sys2Proof.Machine
end

