-- ==== Sys2Proof/Machine/Compensation.lean ====
section
/-! DEFINITION. The Compensation Engine: the pure functions `CompT`, `CompP`, `CompH` (42_compensation.md R91, R93, R95)
and the commands `COMPT`, `COMPP`, `COMPH` (R92, R94, R97).

The functions follow the spec's pseudocode line by line and name by name. `o` is the function's `ovf`: each primitive
takes it and hands it on (00_scope.md R15). Every operand enters by its value (00_scope.md R8). -/

namespace Sys2Proof.Machine

/-- What `CompT` returns (42_compensation.md R91). -/
structure TemperatureResult where
  fine : BitVec 32
  tout : BitVec 32
  ovf : Bool
deriving DecidableEq, Repr

/-- What `CompP` returns (42_compensation.md R93). -/
structure PressureResult where
  p : BitVec 64
  degen : Bool
  ovf : Bool
deriving DecidableEq, Repr

/-- What `CompH` returns (42_compensation.md R95). -/
structure HumidityResult where
  h : BitVec 32
  ovf : Bool
deriving DecidableEq, Repr

/-- `CompT` (42_compensation.md R91), at width 32. -/
def compT (rawT : BitVec 20) (t1 t2 t3 : BitVec 16) : TemperatureResult :=
  let rawT : Int := rawT.toNat
  let t1 : Int := t1.toNat
  let t2 : Int := t2.toInt
  let t3 : Int := t3.toInt
  let a := asrN rawT 3
  let (b, o) := shlN 32 t1 1 false
  let (c, o) := subN 32 a b o
  let (d, o) := mulN 32 c t2 o
  let var1 := asrN d 11
  let (e, o) := subN 32 (asrN rawT 4) t1 o
  let (f, o) := mulN 32 e e o
  let g := asrN f 12
  let (h, o) := mulN 32 g t3 o
  let var2 := asrN h 14
  let (fine, o) := addN 32 var1 var2 o
  let (fine5, o) := mulN 32 fine 5 o
  let (rounded, o) := addN 32 fine5 128 o
  let tout := asrN rounded 8
  { fine := BitVec.ofInt 32 fine, tout := BitVec.ofInt 32 tout, ovf := o }

/-- What `CompP` has before its guard (42_compensation.md R93): `var2a`, `var1c` and the indicator so far. -/
structure PressureTerms where
  var2a : Int
  var1c : Int
  ovf : Bool
deriving DecidableEq, Repr

/-- `CompP` (42_compensation.md R93), at width 64, down to its guard. -/
def pressureTerms (p1 p2 p3 p4 p5 p6 : BitVec 16) (fine : BitVec 32) : PressureTerms :=
  let (var1a, o) := subN 64 fine.toInt 128000 false
  let (sq, o) := mulN 64 var1a var1a o
  let (t1, o) := mulN 64 sq p6.toInt o
  let (v5, o) := mulN 64 var1a p5.toInt o
  let (t2, o) := shlN 64 v5 17 o
  let (t3, o) := shlN 64 p4.toInt 35 o
  let (t12, o) := addN 64 t1 t2 o
  let (var2a, o) := addN 64 t12 t3 o
  let (sq', o) := mulN 64 var1a var1a o
  let (v3, o) := mulN 64 sq' p3.toInt o
  let t4 := asrN v3 8
  let (v2, o) := mulN 64 var1a p2.toInt o
  let (t5, o) := shlN 64 v2 12 o
  let (var1b, o) := addN 64 t4 t5 o
  let (one47, o) := shlN 64 1 47 o
  let (w1, o) := addN 64 one47 var1b o
  let (w2, o) := mulN 64 w1 (p1.toNat : Int) o
  { var2a := var2a, var1c := asrN w2 33, ovf := o }

/-- `CompP` (42_compensation.md R93) from its guard on, with a divisor that is not 0. -/
def pressureQuotient (rawP : BitVec 20) (p7 p8 p9 : BitVec 16) (v : PressureTerms) (nonzero : v.var1c ≠ 0) :
    PressureResult :=
  let (p0, o) := subN 64 1048576 (rawP.toNat : Int) v.ovf
  let (n1, o) := shlN 64 p0 31 o
  let (n2, o) := subN 64 n1 v.var2a o
  let (n3, o) := mulN 64 n2 3125 o
  let (p1, o) := divN 64 n3 v.var1c nonzero o
  let u := asrN p1 13
  let (u1, o) := mulN 64 p9.toInt u o
  let (u2, o) := mulN 64 u1 u o
  let var1d := asrN u2 25
  let (v8, o) := mulN 64 p8.toInt p1 o
  let var2d := asrN v8 19
  let (r1, o) := addN 64 p1 var1d o
  let (r2, o) := addN 64 r1 var2d o
  let (v7, o) := shlN 64 p7.toInt 4 o
  let (p2, o) := addN 64 (asrN r2 8) v7 o
  { p := BitVec.ofInt 64 p2, degen := false, ovf := o }

/-- `CompP` (42_compensation.md R93), with the degenerate guard before its one division. -/
def compP (rawP : BitVec 20) (p1 p2 p3 p4 p5 p6 p7 p8 p9 : BitVec 16) (fine : BitVec 32) : PressureResult :=
  let v := pressureTerms p1 p2 p3 p4 p5 p6 fine
  if nonzero : v.var1c ≠ 0 then pressureQuotient rawP p7 p8 p9 v nonzero
  else { p := 0#64, degen := true, ovf := v.ovf }

/-- `CompH` (42_compensation.md R95), at width 32. `v0` is computed once and is the value at its three places (R96). -/
def compH (rawH : BitVec 16) (h1 : BitVec 8) (h2 : BitVec 16) (h3 : BitVec 8) (h4 h5 : BitVec 16) (h6 : BitVec 8)
    (fine : BitVec 32) : HumidityResult :=
  let (v0, o) := subN 32 fine.toInt 76800 false
  let (x1, o) := shlN 32 (rawH.toNat : Int) 14 o
  let (x2, o) := shlN 32 h4.toInt 20 o
  let (x3, o) := mulN 32 h5.toInt v0 o
  let (x12, o) := subN 32 x1 x2 o
  let (x123, o) := subN 32 x12 x3 o
  let (xr, o) := addN 32 x123 16384 o
  let x := asrN xr 15
  let (m6, o) := mulN 32 v0 h6.toInt o
  let y1 := asrN m6 10
  let (m3, o) := mulN 32 v0 (h3.toNat : Int) o
  let (y2, o) := addN 32 (asrN m3 11) 32768 o
  let (m12, o) := mulN 32 y1 y2 o
  let y3 := asrN m12 10
  let (y4, o) := addN 32 y3 2097152 o
  let (m2, o) := mulN 32 y4 h2.toInt o
  let (yr, o) := addN 32 m2 8192 o
  let y := asrN yr 14
  let (v1, o) := mulN 32 x y o
  let sh := asrN v1 15
  let (sq, o) := mulN 32 sh sh o
  let (m1, o) := mulN 32 (asrN sq 7) (h1.toNat : Int) o
  let z := asrN m1 4
  let (v2, o) := subN 32 v1 z o
  let v3 := clamp v2 0 419430400
  { h := BitVec.ofInt 32 (asrN v3 12), ovf := o }

/-- `CompT` of the registers `COMPT` reads (42_compensation.md R92). -/
def temperatureOf (c : Calibration) (r : RawSample) : TemperatureResult := compT r.t c.t1 c.t2 c.t3

/-- `CompP` of the registers `COMPP` reads (42_compensation.md R94). -/
def pressureOf (c : Calibration) (r : RawSample) (fine : BitVec 32) : PressureResult :=
  compP r.p c.p1 c.p2 c.p3 c.p4 c.p5 c.p6 c.p7 c.p8 c.p9 fine

/-- `CompH` of the registers `COMPH` reads (42_compensation.md R97). -/
def humidityOf (c : Calibration) (r : RawSample) (fine : BitVec 32) : HumidityResult :=
  compH r.h c.h1 c.h2 c.h3 c.h4 c.h5 c.h6 fine

/-- The register writes of `COMPT` and of the temperature part of `MEAS` (42_compensation.md R92, R90). `T_FINE` always
receives `fine`: R90 frees output registers alone, and `T_FINE` is none (10_state.md R27, R28). -/
def writeTemperature (r : TemperatureResult) (s : State) : State :=
  let free := drawsResult r.ovf s
  let tout := outputValue free Config.anyTemperature r.tout s
  setFtValid true (joinOvf r.ovf (noteDraw free { s with tFine := some r.fine, tOut := some tout }))

/-- The register writes of `COMPP` and of the pressure part of `MEAS` (42_compensation.md R94, R90). -/
def writePressure (r : PressureResult) (s : State) : State :=
  let free := drawsResult r.ovf s
  let p := outputValue free Config.anyPressure r.p s
  setDegen r.degen (joinOvf r.ovf (noteDraw free { s with pOut := some p }))

/-- The register writes of `COMPH` and of the humidity part of `MEAS` (42_compensation.md R97, R90). -/
def writeHumidity (r : HumidityResult) (s : State) : State :=
  let free := drawsResult r.ovf s
  let h := outputValue free humidityDraw r.h s
  joinOvf r.ovf (noteDraw free { s with hOut := some h })

/-- `COMPT` (42_compensation.md R92). The fault is for a `⊥` register under a set flag (log entry 1). -/
def execCompt (s : State) : Host.Outcome State Fault Refusal :=
  let s := beginCommand s
  match gateTemperature s.status with
  | .ok =>
    match s.cal, s.raw with
    | some c, some r => .next (writeTemperature (temperatureOf c r) s)
    | _, _ => .fault .bottomRead
  | e => .next (raise e s)

/-- `COMPP` (42_compensation.md R94). The fault is for a `⊥` register under a set flag (log entry 1). -/
def execCompp (s : State) : Host.Outcome State Fault Refusal :=
  let s := beginCommand s
  match gateFine s.status with
  | .ok =>
    match s.cal, s.raw, s.tFine with
    | some c, some r, some fine => .next (writePressure (pressureOf c r fine) s)
    | _, _, _ => .fault .bottomRead
  | e => .next (raise e s)

/-- `COMPH` (42_compensation.md R97). The fault is for a `⊥` register under a set flag (log entry 1). -/
def execComph (s : State) : Host.Outcome State Fault Refusal :=
  let s := beginCommand s
  match gateFine s.status with
  | .ok =>
    match s.cal, s.raw, s.tFine with
    | some c, some r, some fine => .next (writeHumidity (humidityOf c r fine) s)
    | _, _, _ => .fault .bottomRead
  | e => .next (raise e s)

end Sys2Proof.Machine
end

