-- ==== Sys2Proof/Machine/RawSample.lean ====
section
/-! DEFINITION. The Raw Sample Reader commands `LDRAW` and `LDRAW.S` (41_raw_sample.md R86, R87). -/

namespace Sys2Proof.Machine

/-- The raw sample by one 8-byte burst (41_raw_sample.md R86), or none after a short read. -/
def sampleSingle (s : State) : Option RawSample × State :=
  match readBurst s.params.regData.toNat 8 s with
  | (none, s) => (none, s)
  | (some d, s) => (some (packSingle d), s)

/-- The raw sample by bursts of 3, 3 and 2 bytes (41_raw_sample.md R87), or none after the first short one. -/
def sampleSplit (s : State) : Option RawSample × State :=
  match readBurst s.params.regData.toNat 3 s with
  | (none, s) => (none, s)
  | (some dp, s) =>
    match readBurst (s.params.regData.toNat + 3) 3 s with
    | (none, s) => (none, s)
    | (some dt, s) =>
      match readBurst (s.params.regData.toNat + 6) 2 s with
      | (none, s) => (none, s)
      | (some dh, s) => (some (packSplit dp dt dh), s)

/-- A short raw read (41_raw_sample.md R86): `RAW_VALID` <- 0 and TRANSPORT; no raw register is written. -/
def rawFailed (s : State) : State := raise .transport (setRawValid false s)

/-- The three raw registers and `RAW_VALID` <- 1 (41_raw_sample.md R86). -/
def writeRaw (r : RawSample) (s : State) : State := setRawValid true { s with raw := some r }

/-- The raw part from the transport read on (41_raw_sample.md R86, R87). -/
def storeSample (read : Option RawSample × State) : State :=
  match read with
  | (none, s) => rawFailed s
  | (some r, s) => writeRaw r s

/-- `LDRAW` (41_raw_sample.md R86). -/
def execLdraw (s : State) : Host.Outcome State Fault Refusal :=
  let s := beginCommand s
  match gateRaw s.status with
  | .ok => .next (storeSample (sampleSingle (setFtValid false s)))
  | e => .next (raise e s)

/-- `LDRAW.S` (41_raw_sample.md R87). -/
def execLdrawS (s : State) : Host.Outcome State Fault Refusal :=
  let s := beginCommand s
  match gateRaw s.status with
  | .ok => .next (storeSample (sampleSplit (setFtValid false s)))
  | e => .next (raise e s)

end Sys2Proof.Machine
end

