-- ==== Sys2Proof/Machine/Measure.lean ====
section
/-! DEFINITION. The read-all-three commands `MEAS` and `MEAS.S` (43_measure.md R100, R101). -/

namespace Sys2Proof.Machine

/-- The compensation part of `MEAS`, from `CompT` on (43_measure.md R100): temperature, then pressure, then humidity,
the last two with the fine temperature of the first. -/
def compensateAll (c : Calibration) (r : RawSample) (s : State) : State :=
  let t := temperatureOf c r
  writeHumidity (humidityOf c r t.fine) (writePressure (pressureOf c r t.fine) (writeTemperature t s))

/-- `MEAS` from its raw read on (43_measure.md R100): a short read ends it, a full one goes on to the three parts. -/
def measureFrom (c : Calibration) (read : Option RawSample × State) : State :=
  match read with
  | (none, s) => rawFailed s
  | (some r, s) => compensateAll c r (writeRaw r s)

/-- `MEAS` (43_measure.md R100). The fault is for a `⊥` Calibration Store under a set flag (log entry 1). -/
def execMeas (s : State) : Host.Outcome State Fault Refusal :=
  let s := beginCommand s
  match gateReady s.status with
  | .ok =>
    match s.cal with
    | some c => .next (measureFrom c (sampleSingle (setFtValid false s)))
    | none => .fault .bottomRead
  | e => .next (raise e s)

/-- `MEAS.S` (43_measure.md R101). The fault is for a `⊥` Calibration Store under a set flag (log entry 1). -/
def execMeasS (s : State) : Host.Outcome State Fault Refusal :=
  let s := beginCommand s
  match gateReady s.status with
  | .ok =>
    match s.cal with
    | some c => .next (measureFrom c (sampleSplit (setFtValid false s)))
    | none => .fault .bottomRead
  | e => .next (raise e s)

end Sys2Proof.Machine
end

