-- ==== Sys2Proof/Machine/Dispatch.lean ====
section
/-! DEFINITION. One arm per command (30_encoding.md R65). -/

namespace Sys2Proof.Machine

def exec (i : Instr) (s : State) : Host.Outcome State Fault Refusal :=
  match i with
  | .idchk => Sys2Proof.Machine.execIdchk s
  | .ldcal => Sys2Proof.Machine.execLdcal s
  | .ldraw => Sys2Proof.Machine.execLdraw s
  | .ldrawS => Sys2Proof.Machine.execLdrawS s
  | .compt => Sys2Proof.Machine.execCompt s
  | .compp => Sys2Proof.Machine.execCompp s
  | .comph => Sys2Proof.Machine.execComph s
  | .meas => Sys2Proof.Machine.execMeas s
  | .measS => Sys2Proof.Machine.execMeasS s

end Sys2Proof.Machine
end

