-- ==== Sys2Proof/Machine/Host.lean ====
section
/-! DEFINITION. The Host's side of the block: the register map (10_state.md R37 to R39), the write of a command word to
`CMD` (10_state.md R30, 30_encoding.md R67, R69) and one action of the Host's program (20_memory.md R59, R60;
30_encoding.md R71). -/

namespace Sys2Proof.Machine

/-- The index of `CMD` in the host map (10_state.md R37). -/
def cmdIndex : Byte := 0x00#8

/-- An unsigned register's value (10_state.md R38). -/
def unsignedValue {w : Nat} (v : BitVec w) : HostValue := { width := w, value := v.toNat }

/-- A signed register's value (10_state.md R38). -/
def signedValue {w : Nat} (v : BitVec w) : HostValue := { width := w, value := v.toInt }

/-- The pattern a bus that carries bits carries (10_state.md R38). -/
def busPattern (v : HostValue) : BitVec v.width := BitVec.ofInt v.width v.value

/-- A read of a data register: its value, or refused while it holds `⊥` (10_state.md R38). -/
def readRegister {α : Type} (value : α → HostValue) (register : Option α) : Except Refusal HostValue :=
  match register with
  | some v => .ok (value v)
  | none => .error .hostReadBottom

/-- The host register map (10_state.md R37): what a Host read of an index returns, or why it is refused (R38). -/
def hostRead (s : State) (index : Byte) : Except Refusal HostValue :=
  match index.toNat with
  | 0x00 => .error .hostReadCommand
  | 0x01 => .ok (unsignedValue (statusWord s.status))
  | 0x02 => readRegister signedValue s.tOut
  | 0x03 => readRegister signedValue s.pOut
  | 0x04 => readRegister unsignedValue s.hOut
  | 0x05 => readRegister signedValue s.tFine
  | 0x06 => readRegister (fun r => unsignedValue r.p) s.raw
  | 0x07 => readRegister (fun r => unsignedValue r.t) s.raw
  | 0x08 => readRegister (fun r => unsignedValue r.h) s.raw
  | 0x09 => readRegister unsignedValue s.idLast
  | 0x10 => readRegister (fun c => unsignedValue c.t1) s.cal
  | 0x11 => readRegister (fun c => signedValue c.t2) s.cal
  | 0x12 => readRegister (fun c => signedValue c.t3) s.cal
  | 0x13 => readRegister (fun c => unsignedValue c.p1) s.cal
  | 0x14 => readRegister (fun c => signedValue c.p2) s.cal
  | 0x15 => readRegister (fun c => signedValue c.p3) s.cal
  | 0x16 => readRegister (fun c => signedValue c.p4) s.cal
  | 0x17 => readRegister (fun c => signedValue c.p5) s.cal
  | 0x18 => readRegister (fun c => signedValue c.p6) s.cal
  | 0x19 => readRegister (fun c => signedValue c.p7) s.cal
  | 0x1A => readRegister (fun c => signedValue c.p8) s.cal
  | 0x1B => readRegister (fun c => signedValue c.p9) s.cal
  | 0x1C => readRegister (fun c => unsignedValue c.h1) s.cal
  | 0x1D => readRegister (fun c => signedValue c.h2) s.cal
  | 0x1E => readRegister (fun c => unsignedValue c.h3) s.cal
  | 0x1F => readRegister (fun c => signedValue c.h4) s.cal
  | 0x20 => readRegister (fun c => signedValue c.h5) s.cal
  | 0x21 => readRegister (fun c => signedValue c.h6) s.cal
  | _ => .error .hostReadUnmapped

/-- A command word written to `CMD` (10_state.md R30): decode, then run the command or `ILLEGAL`
(30_encoding.md R67, R69). -/
def runWord (w : Byte) (s : State) : Host.Outcome State Fault Refusal :=
  match decode s.params.singleBurst w with
  | .ok i => exec i s
  | .error _ => execIllegal s

/-- The Host goes on to the rest of its program. -/
def setPending (rest : List HostAction) (s : State) : State := { s with host := { s.host with pending := rest } }

/-- The Host got the value of its read (10_state.md R38); the block's registers are untouched. -/
def setReceived (v : HostValue) (s : State) : State := { s with host := { s.host with received := some v } }

/-- After one command of a pseudo-instruction: the Host goes on with the words left, unless none is left or the command
ended with an error (30_encoding.md R71). -/
def continueSequence (words : List Byte) (r : Host.Outcome State Fault Refusal) : Host.Outcome State Fault Refusal :=
  match r with
  | .next s =>
    if words = [] ∨ s.status.err ≠ .ok then .next s
    else .next (setPending (.sequence words :: s.host.pending) s)
  | .fault f => .fault f
  | .refused f => .refused f

/-- One step of the machine: the Host's next action, with the command it starts run whole (00_scope.md R5,
20_memory.md R59, R60). With nothing to do the Engine stays idle (70_reset_and_hazards.md R115, log entry 5). -/
def hostStep (s : State) : Host.Outcome State Fault Refusal :=
  match s.host.pending with
  | [] => .next s
  | .write index value :: rest =>
    if index = cmdIndex then runWord value (setPending rest s) else .refused .hostWriteRefused
  | .read index :: rest =>
    match hostRead s index with
    | .ok v => .next (setReceived v (setPending rest s))
    | .error f => .refused f
  | .sequence [] :: rest => .next (setPending rest s)
  | .sequence (w :: words) :: rest => continueSequence words (runWord w (setPending rest s))

end Sys2Proof.Machine
end

