-- ==== Sys2Proof/Machine/Step.lean ====
section
/-! DEFINITION. One step of the machine, and how a command word is put where the next step takes it from. -/

namespace Sys2Proof.Machine

/-- One step: the Host's next action (00_scope.md R5, 20_memory.md R60). -/
def step (s : State) : Host.Outcome State Fault Refusal := hostStep s

/-- The state whose next step writes the word `w` to `CMD`. The block fetches nothing (20_memory.md R62): a command
reaches it only as the Host's next write (10_state.md R30), so that write is put first in the Host's program (log
entry 5). Every command is one byte (30_encoding.md R63), so `nbits` plays no part. -/
def State.withFetchWord (s : State) (_nbits w : Nat) : State :=
  setPending (.write cmdIndex (BitVec.ofNat 8 w) :: s.host.pending) s

end Sys2Proof.Machine
end

