-- ==== Sys2Proof/Machine/Assembler.lean ====
section
/-! DEFINITION. The assembler's lines (30_encoding.md R70) and the pseudo-instructions (30_encoding.md R71), as the
actions of the Host's program. Text is a list of characters. -/

namespace Sys2Proof.Machine

/-- The pseudo-instructions (30_encoding.md R71). `split` is the `.S` form. -/
inductive Pseudo where
  | init
  | initNoid
  | readT (split : Bool)
  | readP (split : Bool)
  | readH (split : Bool)
  | readAll (split : Bool)
deriving DecidableEq, Repr

/-- The raw read of a `READx` (30_encoding.md R71). -/
def rawCommand (split : Bool) : Instr := if split then .ldrawS else .ldraw

/-- What a pseudo-instruction expands to (30_encoding.md R71). -/
def expandPseudo : Pseudo → List Instr
  | .init => [.idchk, .ldcal]
  | .initNoid => [.ldcal]
  | .readT split => [rawCommand split, .compt]
  | .readP split => [rawCommand split, .compt, .compp]
  | .readH split => [rawCommand split, .compt, .comph]
  | .readAll split => [if split then .measS else .meas]

/-- The Host's action for one command: a write of its word to `CMD`. -/
def commandAction (w : Byte) : HostAction := .write cmdIndex w

/-- The Host's action for a pseudo-instruction: its words in order, stopping at the first error (30_encoding.md R71). -/
def pseudoAction (p : Pseudo) : HostAction := .sequence ((expandPseudo p).map encode)

/-- The mnemonics (30_encoding.md R70), in capitals. -/
def mnemonicTable : List (List Char × HostAction) :=
  [(['I', 'D', 'C', 'H', 'K'], commandAction (encode .idchk)),
   (['L', 'D', 'C', 'A', 'L'], commandAction (encode .ldcal)),
   (['L', 'D', 'R', 'A', 'W'], commandAction (encode .ldraw)),
   (['L', 'D', 'R', 'A', 'W', '.', 'S'], commandAction (encode .ldrawS)),
   (['C', 'O', 'M', 'P', 'T'], commandAction (encode .compt)),
   (['C', 'O', 'M', 'P', 'P'], commandAction (encode .compp)),
   (['C', 'O', 'M', 'P', 'H'], commandAction (encode .comph)),
   (['M', 'E', 'A', 'S'], commandAction (encode .meas)),
   (['M', 'E', 'A', 'S', '.', 'S'], commandAction (encode .measS)),
   (['I', 'N', 'I', 'T'], pseudoAction .init),
   (['I', 'N', 'I', 'T', '.', 'N', 'O', 'I', 'D'], pseudoAction .initNoid),
   (['R', 'E', 'A', 'D', 'T'], pseudoAction (.readT false)),
   (['R', 'E', 'A', 'D', 'T', '.', 'S'], pseudoAction (.readT true)),
   (['R', 'E', 'A', 'D', 'P'], pseudoAction (.readP false)),
   (['R', 'E', 'A', 'D', 'P', '.', 'S'], pseudoAction (.readP true)),
   (['R', 'E', 'A', 'D', 'H'], pseudoAction (.readH false)),
   (['R', 'E', 'A', 'D', 'H', '.', 'S'], pseudoAction (.readH true)),
   (['R', 'E', 'A', 'D', 'A', 'L', 'L'], pseudoAction (.readAll false)),
   (['R', 'E', 'A', 'D', 'A', 'L', 'L', '.', 'S'], pseudoAction (.readAll true))]

/-- Space and tab separate words (log entry 8). -/
def isBlank (c : Char) : Bool := c == ' ' || c == '\t'

/-- The words of a line; `acc` is the word begun, last character first. -/
def lineWords : List Char → List Char → List (List Char)
  | acc, [] => if acc = [] then [] else [acc.reverse]
  | acc, c :: cs =>
    if isBlank c then (if acc = [] then lineWords [] cs else acc.reverse :: lineWords [] cs)
    else lineWords (c :: acc) cs

/-- A hexadecimal digit, in capitals. -/
def hexDigit (c : Char) : Option (BitVec 4) :=
  if '0' ≤ c ∧ c ≤ '9' then some (BitVec.ofNat 4 (c.toNat - 48))
  else if 'A' ≤ c ∧ c ≤ 'F' then some (BitVec.ofNat 4 (c.toNat - 55))
  else none

/-- What a line assembles to (30_encoding.md R70). -/
inductive AsmLine where
  /-- Nothing: the line is empty or a comment. -/
  | blank
  /-- One action of the Host's program. -/
  | action (a : HostAction)
  /-- Not a line of the assembler's text. -/
  | bad
deriving DecidableEq, Repr

/-- One line (30_encoding.md R70): a mnemonic alone, `.byte 0xNN`, or nothing; `;` starts a comment; capitals and small
letters are the same. -/
def assembleLine (line : List Char) : AsmLine :=
  match lineWords [] ((line.takeWhile (· ≠ ';')).map Char.toUpper) with
  | [] => .blank
  | [m] =>
    match mnemonicTable.find? (·.1 = m) with
    | some row => .action row.2
    | none => .bad
  | [['.', 'B', 'Y', 'T', 'E'], ['0', 'X', hi, lo]] =>
    match hexDigit hi, hexDigit lo with
    | some a, some b => .action (commandAction (a ++ b))
    | _, _ => .bad
  | _ => .bad

/-- A whole text, line by line: the Host's program, or none where a line is bad (30_encoding.md R70). -/
def assemble : List (List Char) → Option (List HostAction)
  | [] => some []
  | line :: lines =>
    match assembleLine line, assemble lines with
    | .blank, some rest => some rest
    | .action a, some rest => some (a :: rest)
    | _, _ => none

end Sys2Proof.Machine
end

