-- ==== Sys2Proof/Machine/Physical.lean ====
section
/-! DEFINITION. The physical values the output registers stand for, as exact rationals (42_compensation.md R99). The
conversion to floating point is the Host's and is outside the block (00_scope.md R4). -/

namespace Sys2Proof.Machine

/-- `T_OUT / 100`, in °C (42_compensation.md R99). -/
def degreesCelsius (tOut : BitVec 32) : ℚ := (tOut.toInt : ℚ) / 100

/-- `P_OUT / 256`, in Pa (42_compensation.md R99). -/
def pascals (pOut : BitVec 64) : ℚ := (pOut.toInt : ℚ) / 256

/-- `P_OUT / 25600`, in hPa (42_compensation.md R99). -/
def hectopascals (pOut : BitVec 64) : ℚ := (pOut.toInt : ℚ) / 25600

/-- `H_OUT / 1024`, in %RH (42_compensation.md R99). -/
def percentHumidity (hOut : BitVec 32) : ℚ := (hOut.toNat : ℚ) / 1024

end Sys2Proof.Machine
end

