-- ==== Sys2Proof/Safety.lean ====
section
/-! DEFINITION. What holds of every state a run from reset reaches, in the terms the statements use: the flags back the
registers they gate (10_state.md R35), the fine temperature is the current one (10_state.md R33), the identity record
(10_state.md R29, R32), the ranges of H4, H5 and `H_OUT` (10_state.md R24, 42_compensation.md R98) and the per-command
fields (60_exceptions.md R108, 42_compensation.md R94). -/

namespace Sys2Proof.Safety

open Sys2Proof.Machine

/-- 10_state.md R35: a set flag stands over registers that hold a value. -/
def FlagsBacked (s : State) : Prop :=
  (s.status.ftValid = true → s.status.rawValid = true ∧ s.status.calValid = true) ∧
  (s.status.rawValid = true → s.raw ≠ none) ∧
  (s.status.calValid = true → s.cal ≠ none) ∧
  (s.status.ftValid = true → s.tFine ≠ none)

/-- 10_state.md R33: `FT_VALID` = 1 says that `T_FINE` is `CompT` of the sample and calibration now held, and `T_OUT` with
it, unless `anyvalue` made `T_OUT` a draw (42_compensation.md R90). That a `MEAS` whose pressure or humidity alone
overflowed leaves the computed `T_OUT` is log entry 6 (43_measure.md R102). -/
def FineCurrent (s : State) : Prop :=
  s.status.ftValid = true →
    ∃ c r, s.cal = some c ∧ s.raw = some r ∧ s.tFine = some (temperatureOf c r).fine ∧
      (s.tOut = some (temperatureOf c r).tout ∨
        (s.params.ovfPolicy = .anyvalue ∧ (temperatureOf c r).ovf = true))

/-- 10_state.md R29, R32: `IDST` is what `ID_LAST` says about the last complete identity read. -/
def IdentityRecorded (s : State) : Prop :=
  match s.status.idst with
  | .unchecked => s.idLast = none
  | .ok => s.idLast = some s.params.idExpected
  | .mismatch => ∃ b, s.idLast = some b ∧ b ≠ s.params.idExpected

/-- 10_state.md R24: the value of a register of H4 and H5 has 12 significant bits, by `H45_SIGNED`. -/
def TwelveBit (h45Signed : Bool) (v : BitVec 16) : Prop :=
  if h45Signed then -2048 ≤ v.toInt ∧ v.toInt ≤ 2047 else v.toNat ≤ 4095

/-- 10_state.md R24: `CAL_H4` and `CAL_H5` stay in their ranges. -/
def NibbleConstantsInRange (s : State) : Prop :=
  ∀ c, s.cal = some c → TwelveBit s.params.h45Signed c.h4 ∧ TwelveBit s.params.h45Signed c.h5

/-- 42_compensation.md R98: `H_OUT` is in 0 .. 102400 whenever it holds a value. -/
def HumidityBounded (s : State) : Prop := ∀ h, s.hOut = some h → h.toNat ≤ 102400

/-- 60_exceptions.md R108: `OVF` and `DEGEN` are set only by a command that ends OK; 42_compensation.md R94: `DEGEN` = 1
stands beside the sentinel 0, unless `anyvalue` made `P_OUT` a draw. -/
def FieldsOfLastCommand (s : State) : Prop :=
  (s.status.err ≠ .ok → s.status.ovf = false ∧ s.status.degen = false) ∧
  (s.status.degen = true →
    s.pOut = some 0#64 ∨ (s.params.ovfPolicy = .anyvalue ∧ s.status.ovf = true))

/-- All of it together. -/
def Coherent (s : State) : Prop :=
  FlagsBacked s ∧ FineCurrent s ∧ IdentityRecorded s ∧ NibbleConstantsInRange s ∧ HumidityBounded s ∧
    FieldsOfLastCommand s

/-- The transport's answer number `j` from this state on (20_memory.md R42): an answer State holds, or, past them, the
free value drawn then (log entry 2). -/
def coming (s : State) (j : Nat) : List Byte :=
  if h : j < s.bus.replies.length then s.bus.replies[j]
  else Config.anyReply (s.draws + (j - s.bus.replies.length))

/-- The state after the transport was asked for `bursts` and nothing else happened. -/
def afterBursts (bursts : List BurstRequest) (s : State) : State :=
  { s with
    bus := { replies := s.bus.replies.drop bursts.length, requests := s.bus.requests ++ bursts }
    draws := s.draws + (bursts.length - s.bus.replies.length) }

/-- The table of 20_memory.md R46: the bursts each command asks for, in order. -/
def burstsOf (p : Params) : Instr → List BurstRequest
  | .idchk => [⟨p.devAddr, p.regId.toNat, 1⟩]
  | .ldcal => [⟨p.devAddr, p.regCalTp.toNat, 24⟩, ⟨p.devAddr, p.regCalH1.toNat, 1⟩, ⟨p.devAddr, p.regCalH.toNat, 7⟩]
  | .ldraw => [⟨p.devAddr, p.regData.toNat, 8⟩]
  | .ldrawS =>
    [⟨p.devAddr, p.regData.toNat, 3⟩, ⟨p.devAddr, p.regData.toNat + 3, 3⟩, ⟨p.devAddr, p.regData.toNat + 6, 2⟩]
  | .compt => []
  | .compp => []
  | .comph => []
  | .meas => [⟨p.devAddr, p.regData.toNat, 8⟩]
  | .measS =>
    [⟨p.devAddr, p.regData.toNat, 3⟩, ⟨p.devAddr, p.regData.toNat + 3, 3⟩, ⟨p.devAddr, p.regData.toNat + 6, 2⟩]

/-- `STATUS` after the clears at the start of a command (10_state.md R34). -/
def cleared (st : Status) : Status := { st with err := .ok, ovf := false, degen := false }

/-- A command passes its checks and comes to its transport reads (60_exceptions.md R108): `IDCHK` and `LDCAL` always,
the raw reads unless the identity is wrong, `MEAS` and `MEAS.S` with a valid calibration as well. -/
def ReachesTransport (i : Instr) (s : State) : Prop :=
  match i with
  | .idchk | .ldcal => True
  | .ldraw | .ldrawS => s.status.idst ≠ .mismatch
  | .meas | .measS => s.status.idst ≠ .mismatch ∧ s.status.calValid = true ∧ s.cal ≠ none
  | .compt | .compp | .comph => False

/-- `COMPP` and `COMPH` pass the checks of 42_compensation.md R88 and their registers hold values. -/
def ReadyForFine (s : State) (c : Calibration) (r : RawSample) (fine : BitVec 32) : Prop :=
  s.status.idst ≠ .mismatch ∧ s.status.calValid = true ∧ s.status.rawValid = true ∧ s.status.ftValid = true ∧
    s.cal = some c ∧ s.raw = some r ∧ s.tFine = some fine

/-- `COMPT` passes the checks of 42_compensation.md R88 and its registers hold values. -/
def ReadyForTemperature (s : State) (c : Calibration) (r : RawSample) : Prop :=
  s.status.idst ≠ .mismatch ∧ s.status.calValid = true ∧ s.status.rawValid = true ∧ s.cal = some c ∧ s.raw = some r

/-- `MEAS` and `MEAS.S` pass their check (43_measure.md R100) and the Calibration Store holds values. -/
def ReadyToMeasure (s : State) (c : Calibration) : Prop :=
  s.status.idst ≠ .mismatch ∧ s.status.calValid = true ∧ s.cal = some c

/-- `x` lies in the `sN` range (00_scope.md R8). -/
def Fits (n : Nat) (x : Int) : Prop := -2 ^ (n - 1) ≤ x ∧ x < 2 ^ (n - 1)

/-- The compensation commands' outputs are the computed values: the policy is `wrap`, or nothing overflowed
(42_compensation.md R90). -/
def Computed (s : State) (ovf : Bool) : Prop := s.params.ovfPolicy = .wrap ∨ ovf = false

end Sys2Proof.Safety
end

