-- ==== Sys2Proof/Certificates/Slice0/Obligations.lean ====
section
/-! DEFINITION. The statements for the provers, from the numbered rules of spec/. -/

open Sys2Proof Sys2Proof.Machine Sys2Proof.Safety

/-! ### Arithmetic (00_scope.md) -/

/-- 00_scope.md R10: `wrap_N(x)` is the unique value of the `sN` range congruent to `x` modulo `2^N`. -/
def Obligations.WrapIsTheUniqueCongruentValue : Prop :=
  ∀ (n : Nat) (x : Int), 0 < n →
    (-2 ^ (n - 1) ≤ wrap n x ∧ wrap n x < 2 ^ (n - 1) ∧ (2 ^ n : Int) ∣ wrap n x - x) ∧
    ∀ y : Int, -2 ^ (n - 1) ≤ y → y < 2 ^ (n - 1) → (2 ^ n : Int) ∣ y - x → y = wrap n x

/-- 00_scope.md R11, R12: each primitive wraps its exact result; the indicator is set exactly when the exact result is
out of range or it was set before; and a result whose own indicator stays clear is the exact one. -/
def Obligations.PrimitivesWrapAndFlagOverflow : Prop :=
  ∀ (n : Nat) (a b : Int) (k : Nat) (o : Bool), n = 32 ∨ n = 64 → k < n →
    -2 ^ (n - 1) ≤ a → a < 2 ^ (n - 1) → -2 ^ (n - 1) ≤ b → b < 2 ^ (n - 1) →
    ∀ exact result, (exact, result) ∈ [(a + b, addN n a b o), (a - b, subN n a b o), (a * b, mulN n a b o),
        (a * 2 ^ k, shlN n a k o)] →
      result.1 = wrap n exact ∧
      (result.2 = true ↔ o = true ∨ exact < -2 ^ (n - 1) ∨ 2 ^ (n - 1) ≤ exact) ∧
      (result.2 = false → result.1 = exact)

/-- 00_scope.md R13: `asr_N` is the floor of the quotient by `2^k`, stays in range, and has the rule's two values. -/
def Obligations.ArithmeticShiftIsFloor : Prop :=
  (∀ (n : Nat) (a : Int) (k : Nat), n = 32 ∨ n = 64 → k < n → -2 ^ (n - 1) ≤ a → a < 2 ^ (n - 1) →
    asrN a k * 2 ^ k ≤ a ∧ a < (asrN a k + 1) * 2 ^ k ∧ -2 ^ (n - 1) ≤ asrN a k ∧ asrN a k < 2 ^ (n - 1)) ∧
  asrN (-1) 4 = -1 ∧ asrN (-17) 4 = -2

/-- 00_scope.md R14: `div_N` truncates toward zero, wraps, and sets the indicator only for `-2^(N-1) / -1`. A divisor
of 0 cannot be given to it. -/
def Obligations.DivisionTruncatesTowardZero : Prop :=
  (∀ (n : Nat) (a b : Int) (nonzero : b ≠ 0) (o : Bool), n = 32 ∨ n = 64 →
    -2 ^ (n - 1) ≤ a → a < 2 ^ (n - 1) → -2 ^ (n - 1) ≤ b → b < 2 ^ (n - 1) →
    let q := divN n a b nonzero o
    if a = -2 ^ (n - 1) ∧ b = -1 then q = (-2 ^ (n - 1), true)
    else q.2 = o ∧ |a - q.1 * b| < |b| ∧ (0 ≤ a → 0 ≤ a - q.1 * b) ∧ (a ≤ 0 → a - q.1 * b ≤ 0)) ∧
  divN 64 (-306570775138012500) 597560748 (by decide) false = (-513037002, false)

/-- 42_compensation.md R91 as a 32-bit machine computes it: two's-complement words, with `-`, `*`, `+` modulo `2^32` and
sign-extending right shifts. -/
def Obligations.TemperatureIsThirtyTwoBitArithmetic : Prop :=
  ∀ (rawT : BitVec 20) (t1 t2 t3 : BitVec 16),
    let raw := rawT.setWidth 32
    let u1 := t1.setWidth 32
    let var1 := ((raw.sshiftRight 3 - u1 <<< 1) * t2.signExtend 32).sshiftRight 11
    let e := raw.sshiftRight 4 - u1
    let var2 := ((e * e).sshiftRight 12 * t3.signExtend 32).sshiftRight 14
    let fine := var1 + var2
    (compT rawT t1 t2 t3).fine = fine ∧ (compT rawT t1 t2 t3).tout = (fine * 5#32 + 128#32).sshiftRight 8

/-- 42_compensation.md R93 as a 64-bit machine computes it, with the guard before the truncating division. -/
def Obligations.PressureIsSixtyFourBitArithmetic : Prop :=
  ∀ (rawP : BitVec 20) (p1 p2 p3 p4 p5 p6 p7 p8 p9 : BitVec 16) (fine : BitVec 32),
    let var1a := fine.signExtend 64 - 128000#64
    let var2a := var1a * var1a * p6.signExtend 64 + (var1a * p5.signExtend 64) <<< 17 + p4.signExtend 64 <<< 35
    let var1b := (var1a * var1a * p3.signExtend 64).sshiftRight 8 + (var1a * p2.signExtend 64) <<< 12
    let var1c := ((1#64 <<< 47 + var1b) * p1.setWidth 64).sshiftRight 33
    let q := ((((1048576#64 - rawP.setWidth 64) <<< 31) - var2a) * 3125#64).sdiv var1c
    let u := q.sshiftRight 13
    let var1d := (p9.signExtend 64 * u * u).sshiftRight 25
    let var2d := (p8.signExtend 64 * q).sshiftRight 19
    let r := compP rawP p1 p2 p3 p4 p5 p6 p7 p8 p9 fine
    r.degen = decide (var1c = 0#64) ∧
    r.p = if var1c = 0#64 then 0#64 else (q + var1d + var2d).sshiftRight 8 + p7.signExtend 64 <<< 4

/-- 42_compensation.md R95, R96 as a 32-bit machine computes it: one captured `v0` at its three places, then the clamp
and the last shift. -/
def Obligations.HumidityIsThirtyTwoBitArithmetic : Prop :=
  ∀ (rawH : BitVec 16) (h1 : BitVec 8) (h2 : BitVec 16) (h3 : BitVec 8) (h4 h5 : BitVec 16) (h6 : BitVec 8)
    (fine : BitVec 32),
    let v0 := fine - 76800#32
    let x := (rawH.setWidth 32 <<< 14 - h4.signExtend 32 <<< 20 - h5.signExtend 32 * v0 + 16384#32).sshiftRight 15
    let y1 := (v0 * h6.signExtend 32).sshiftRight 10
    let y2 := (v0 * h3.setWidth 32).sshiftRight 11 + 32768#32
    let y4 := (y1 * y2).sshiftRight 10 + 2097152#32
    let y := (y4 * h2.signExtend 32 + 8192#32).sshiftRight 14
    let v1 := x * y
    let z := ((v1.sshiftRight 15 * v1.sshiftRight 15).sshiftRight 7 * h1.setWidth 32).sshiftRight 4
    let v2 := v1 - z
    let v3 := if v2.toInt < 0 then 0#32 else if v2.toInt > 419430400 then 419430400#32 else v2
    (compH rawH h1 h2 h3 h4 h5 h6 fine).h = v3.sshiftRight 12

/-- 42_compensation.md R91, its sentence on overflow: in `CompT` only the exact products `d`, `f` and `h` can leave the
32-bit range. -/
def Obligations.TemperatureOverflowsOnlyInItsProducts : Prop :=
  ∀ (rawT : BitVec 20) (t1 t2 t3 : BitVec 16),
    let c := (rawT.toNat : Int) / 8 - 2 * (t1.toNat : Int)
    let e := (rawT.toNat : Int) / 16 - (t1.toNat : Int)
    ((compT rawT t1 t2 t3).ovf = true ↔
      ¬(-2147483648 ≤ c * t2.toInt ∧ c * t2.toInt ≤ 2147483647) ∨
      ¬(e * e ≤ 2147483647) ∨
      ¬(-2147483648 ≤ wrap 32 (e * e) / 4096 * t3.toInt ∧ wrap 32 (e * e) / 4096 * t3.toInt ≤ 2147483647))

/-- 00_scope.md R15 for 42_compensation.md R93: over unbounded integers, `/` the floor, `before` are the exact results of
`CompP`'s primitives down to its guard and `after` those of the rest. `ovf` stays false exactly when every one of them that
is computed lies in the 64-bit range, and then `degen` and `p` are the exact ones. -/
def Obligations.PressureOverflowsExactlyWhenAPrimitiveDoes : Prop :=
  ∀ (rawP : BitVec 20) (p1 p2 p3 p4 p5 p6 p7 p8 p9 : BitVec 16) (fine : BitVec 32),
    let a : Int := fine.toInt - 128000
    let t1 := a * a * p6.toInt
    let t2 := a * p5.toInt * 2 ^ 17
    let t3 := p4.toInt * 2 ^ 35
    let var2a := t1 + t2 + t3
    let t5 := a * p2.toInt * 2 ^ 12
    let var1b := a * a * p3.toInt / 2 ^ 8 + t5
    let w := (2 ^ 47 + var1b) * (p1.toNat : Int)
    let var1c := w / 2 ^ 33
    let p0 : Int := 1048576 - rawP.toNat
    let n := (p0 * 2 ^ 31 - var2a) * 3125
    let q := n.tdiv var1c
    let u := q / 2 ^ 13
    let sum := q + p9.toInt * u * u / 2 ^ 25
    let total := sum + p8.toInt * q / 2 ^ 19
    let result := total / 2 ^ 8 + p7.toInt * 2 ^ 4
    let before := [a, a * a, t1, a * p5.toInt, t2, t3, t1 + t2, var2a, a * a * p3.toInt, a * p2.toInt, t5, var1b, 2 ^ 47,
      2 ^ 47 + var1b, w]
    let after := [p0, p0 * 2 ^ 31, p0 * 2 ^ 31 - var2a, n, q, p9.toInt * u, p9.toInt * u * u, p8.toInt * q, sum, total,
      p7.toInt * 2 ^ 4, result]
    let r := compP rawP p1 p2 p3 p4 p5 p6 p7 p8 p9 fine
    (r.ovf = false ↔ (∀ x ∈ before, Fits 64 x) ∧ (var1c ≠ 0 → ∀ x ∈ after, Fits 64 x)) ∧
    (r.ovf = false → r.degen = decide (var1c = 0) ∧ r.p.toInt = if var1c = 0 then 0 else result)

/-- 00_scope.md R15 for 42_compensation.md R95: over unbounded integers, `/` the floor, the list holds the exact results of
`CompH`'s primitives. `ovf` stays false exactly when every one lies in the 32-bit range, and then `h` is the exact one. -/
def Obligations.HumidityOverflowsExactlyWhenAPrimitiveDoes : Prop :=
  ∀ (rawH : BitVec 16) (h1 : BitVec 8) (h2 : BitVec 16) (h3 : BitVec 8) (h4 h5 : BitVec 16) (h6 : BitVec 8)
    (fine : BitVec 32),
    let v0 : Int := fine.toInt - 76800
    let x1 : Int := rawH.toNat * 2 ^ 14
    let x2 := h4.toInt * 2 ^ 20
    let x3 := h5.toInt * v0
    let rounded := x1 - x2 - x3 + 16384
    let m6 := v0 * h6.toInt
    let m3 := v0 * (h3.toNat : Int)
    let y2 := m3 / 2 ^ 11 + 32768
    let m12 := m6 / 2 ^ 10 * y2
    let y4 := m12 / 2 ^ 10 + 2097152
    let m2 := y4 * h2.toInt
    let v1 := rounded / 2 ^ 15 * ((m2 + 8192) / 2 ^ 14)
    let square := v1 / 2 ^ 15 * (v1 / 2 ^ 15)
    let m1 := square / 2 ^ 7 * (h1.toNat : Int)
    let v2 := v1 - m1 / 2 ^ 4
    let r := compH rawH h1 h2 h3 h4 h5 h6 fine
    (r.ovf = false ↔ ∀ x ∈ [v0, x1, x2, x3, x1 - x2, x1 - x2 - x3, rounded, m6, m3, y2, m12, y4, m2, m2 + 8192, v1, square,
      m1, v2], Fits 32 x) ∧
    (r.ovf = false → (r.h.toNat : Int) = min (max v2 0) 419430400 / 2 ^ 12)

/-- The worked examples of 95_test_vectors.md E1, E2, V-P2, V-P3, V-P7, V-H1, V-H8, on the three functions. -/
def Obligations.CompensationWorkedExamples : Prop :=
  compT 519888#20 27504#16 26435#16 (-1000#16) = ⟨128422#32, 2508#32, false⟩ ∧
  compP 415148#20 36477#16 (-10685#16) 3024#16 2855#16 140#16 (-7#16) 15500#16 (-14600#16) 6000#16 128422#32 =
    ⟨25767233#64, false, false⟩ ∧
  compP 415148#20 0#16 (-10685#16) 3024#16 2855#16 140#16 (-7#16) 15500#16 (-14600#16) 6000#16 128422#32 =
    ⟨0#64, true, false⟩ ∧
  compP 1048575#20 36477#16 (-10685#16) 3024#16 2855#16 140#16 (-7#16) 15500#16 (-14600#16) 6000#16 128422#32 =
    ⟨-1697504#64, false, false⟩ ∧
  compP 415148#20 36477#16 (-10685#16) 3024#16 2855#16 140#16 (-32768#16) 15500#16 (-14600#16) 6000#16 2147483647#32 =
    ⟨12702304#64, false, true⟩ ∧
  compH 30000#16 75#8 362#16 0#8 313#16 50#16 30#8 128422#32 = ⟨56317#32, false⟩ ∧
  compH 30000#16 75#8 15390#16 0#8 445#16 47#16 30#8 128422#32 = ⟨0#32, true⟩

/-! ### Encoding (30_encoding.md) -/

/-- 30_encoding.md R66: the legal words, by its formula and by its two lists. -/
def Obligations.LegalWordsAreTheNine : Prop :=
  ∀ (singleBurst : Bool) (w : Byte),
    (legal singleBurst w = true ↔
      w.toNat / 32 = 0 ∧ w.toNat % 16 ∈ [0x1, 0x2, 0x3, 0x4, 0x5, 0x6, 0x7] ∧
      (w.toNat / 16 % 2 = 0 ∨ w.toNat % 16 ∈ [0x3, 0x7]) ∧
      ¬(w.toNat / 16 % 2 = 0 ∧ w.toNat % 16 ∈ [0x3, 0x7] ∧ singleBurst = false)) ∧
    (legal true w = true ↔ w ∈ [0x01#8, 0x02#8, 0x03#8, 0x04#8, 0x05#8, 0x06#8, 0x07#8, 0x13#8, 0x17#8]) ∧
    (legal false w = true ↔ w ∈ [0x01#8, 0x02#8, 0x04#8, 0x05#8, 0x06#8, 0x13#8, 0x17#8])

/-- 30_encoding.md R69: the decoder gives an instruction exactly on the legal words, and there the row of R65. R69 maps every
other word to `ILLEGAL`, which the model writes as the decoder's rejection (log entry 9, DEDUCED). -/
def Obligations.DecoderFollowsTheOpcodeMap : Prop :=
  ∀ (singleBurst : Bool) (w : Byte),
    if legal singleBurst w then
      ∃ row ∈ [(0x01#8, Instr.idchk), (0x02#8, .ldcal), (0x03#8, .ldraw), (0x13#8, .ldrawS), (0x04#8, .compt),
          (0x05#8, .compp), (0x06#8, .comph), (0x07#8, .meas), (0x17#8, .measS)],
        row.1 = w ∧ decode singleBurst w = .ok row.2
    else ∃ why, decode singleBurst w = .error why

/-- 30_encoding.md R65, R69: decode and encode agree, both ways, on every word, command and value of `SINGLE_BURST`. -/
def Obligations.DecodeAndEncodeAgree : Prop :=
  ∀ (singleBurst : Bool) (w : Byte) (i : Instr),
    decode singleBurst w = .ok i ↔ i.wellFormed singleBurst = true ∧ encode i = w

/-- A few words of spec/opcode_table.json, each with its instruction. `decodeTableWord` decodes for the default
`SINGLE_BURST` = true (log entry 4, PRESUMED), and the clause of `MEAS` rests on it. -/
def Obligations.TableWordsDecodeToTheirRows : Prop :=
  decodeTableWord 8 0x01 = some .idchk ∧ decodeTableWord 8 0x02 = some .ldcal ∧
  decodeTableWord 8 0x13 = some .ldrawS ∧ decodeTableWord 8 0x04 = some .compt ∧
  decodeTableWord 8 0x07 = some .meas ∧ decodeTableWord 8 0x00 = none ∧ decodeTableWord 8 0x23 = none

/-! ### The Host and one step (10_state.md, 20_memory.md, 30_encoding.md) -/

/-- A write of a legal word to `CMD` runs exactly that command, on the state with the rest of the Host's program; the
step adds nothing else (10_state.md R30, 30_encoding.md R69). -/
def Obligations.StepRunsTheDecodedCommand : Prop :=
  ∀ (s : State) (w : Byte) (rest : List HostAction) (i : Instr),
    s.host.pending = .write 0x00#8 w :: rest → decode s.params.singleBurst w = .ok i →
    step s = exec i { s with host := { s.host with pending := rest } }

/-- 30_encoding.md R67: an illegal word clears the per-command fields, raises ILLEGAL, asks nothing of the transport and
writes nothing else; after reset `STATUS` then reads 0x0600. -/
def Obligations.IllegalWordOnlySetsErr : Prop :=
  (∀ (s : State) (w : Byte) (rest : List HostAction),
    s.host.pending = .write 0x00#8 w :: rest → legal s.params.singleBurst w = false →
    step s = .next { s with
      host := { s.host with pending := rest }
      status := { s.status with err := .illegal, ovf := false, degen := false } }) ∧
  statusWord { Status.reset with err := .illegal } = 0x0600#16

/-- 10_state.md R37, R38: the host register map. A read of a mapped index returns the register's whole value at its type;
a register that holds `⊥`, `CMD` and every unmapped index are refused. -/
def Obligations.HostRegisterMap : Prop :=
  ∀ s : State,
    hostRead s 0x00#8 = .error .hostReadCommand ∧
    hostRead s 0x01#8 = .ok ⟨16, (statusWord s.status).toNat⟩ ∧
    (s.tOut = none → hostRead s 0x02#8 = .error .hostReadBottom) ∧
    (∀ v, s.tOut = some v → hostRead s 0x02#8 = .ok ⟨32, v.toInt⟩) ∧
    (s.pOut = none → hostRead s 0x03#8 = .error .hostReadBottom) ∧
    (∀ v, s.pOut = some v → hostRead s 0x03#8 = .ok ⟨64, v.toInt⟩) ∧
    (s.hOut = none → hostRead s 0x04#8 = .error .hostReadBottom) ∧
    (∀ v, s.hOut = some v → hostRead s 0x04#8 = .ok ⟨32, v.toNat⟩) ∧
    (s.tFine = none → hostRead s 0x05#8 = .error .hostReadBottom) ∧
    (∀ v, s.tFine = some v → hostRead s 0x05#8 = .ok ⟨32, v.toInt⟩) ∧
    (s.raw = none → ∀ index ∈ [0x06#8, 0x07#8, 0x08#8], hostRead s index = .error .hostReadBottom) ∧
    (∀ r, s.raw = some r →
      hostRead s 0x06#8 = .ok ⟨20, r.p.toNat⟩ ∧ hostRead s 0x07#8 = .ok ⟨20, r.t.toNat⟩ ∧
      hostRead s 0x08#8 = .ok ⟨16, r.h.toNat⟩) ∧
    (s.idLast = none → hostRead s 0x09#8 = .error .hostReadBottom) ∧
    (∀ v, s.idLast = some v → hostRead s 0x09#8 = .ok ⟨8, v.toNat⟩) ∧
    (s.cal = none → ∀ index : Byte, 0x10#8 ≤ index → index ≤ 0x21#8 → hostRead s index = .error .hostReadBottom) ∧
    (∀ c, s.cal = some c →
      hostRead s 0x10#8 = .ok ⟨16, c.t1.toNat⟩ ∧ hostRead s 0x11#8 = .ok ⟨16, c.t2.toInt⟩ ∧
      hostRead s 0x12#8 = .ok ⟨16, c.t3.toInt⟩ ∧ hostRead s 0x13#8 = .ok ⟨16, c.p1.toNat⟩ ∧
      hostRead s 0x14#8 = .ok ⟨16, c.p2.toInt⟩ ∧ hostRead s 0x15#8 = .ok ⟨16, c.p3.toInt⟩ ∧
      hostRead s 0x16#8 = .ok ⟨16, c.p4.toInt⟩ ∧ hostRead s 0x17#8 = .ok ⟨16, c.p5.toInt⟩ ∧
      hostRead s 0x18#8 = .ok ⟨16, c.p6.toInt⟩ ∧ hostRead s 0x19#8 = .ok ⟨16, c.p7.toInt⟩ ∧
      hostRead s 0x1A#8 = .ok ⟨16, c.p8.toInt⟩ ∧ hostRead s 0x1B#8 = .ok ⟨16, c.p9.toInt⟩ ∧
      hostRead s 0x1C#8 = .ok ⟨8, c.h1.toNat⟩ ∧ hostRead s 0x1D#8 = .ok ⟨16, c.h2.toInt⟩ ∧
      hostRead s 0x1E#8 = .ok ⟨8, c.h3.toNat⟩ ∧ hostRead s 0x1F#8 = .ok ⟨16, c.h4.toInt⟩ ∧
      hostRead s 0x20#8 = .ok ⟨16, c.h5.toInt⟩ ∧ hostRead s 0x21#8 = .ok ⟨8, c.h6.toInt⟩) ∧
    (∀ index : Byte, 0x0A#8 ≤ index → index ≤ 0x0F#8 → hostRead s index = .error .hostReadUnmapped) ∧
    (∀ index : Byte, 0x22#8 ≤ index → hostRead s index = .error .hostReadUnmapped)

/-- 10_state.md R38, R39: a Host read changes nothing of the block; a refused read and a write to any index but that of
`CMD` are steps that do not happen. That the answer is kept in `host.received` is the model's choice (log entry 5). -/
def Obligations.HostAccessesTouchNoRegister : Prop :=
  ∀ (s : State) (index v : Byte) (rest : List HostAction),
    (s.host.pending = .read index :: rest →
      (∀ value, hostRead s index = .ok value →
        step s = .next { s with host := { pending := rest, received := some value } }) ∧
      (∀ why, hostRead s index = .error why → step s = .refused why)) ∧
    (s.host.pending = .write index v :: rest → index ≠ 0x00#8 → step s = .refused .hostWriteRefused)

/-- 30_encoding.md R71: a pseudo-instruction issues its words one after another and stops after the first command whose
`STATUS.ERR` is not OK. -/
def Obligations.SequenceStopsAtTheFirstError : Prop :=
  ∀ (s t : State) (w : Byte) (words : List Byte) (rest : List HostAction),
    s.host.pending = .sequence (w :: words) :: rest →
    runWord w { s with host := { s.host with pending := rest } } = .next t →
    step s = .next (if t.status.err = .ok ∧ words ≠ [] then
      { t with host := { t.host with pending := .sequence words :: rest } } else t)

/-- 30_encoding.md R70, R71: what the assembler's lines and the pseudo-instructions put into the Host's program. A mnemonic
is a write of its row's word, `.byte 0xNN` a write of that word, a comment nothing, and a pseudo-instruction the sequence
of its expansion's words; two lines that differ only in the case of letters are the same line. What separates words, that
`.byte` takes two digits and which lines are bad is the model's choice (log entry 8). -/
def Obligations.AssemblerLinesAndPseudoInstructions : Prop :=
  (∀ row ∈ [("IDCHK", 0x01#8), ("LDCAL", 0x02#8), ("LDRAW", 0x03#8), ("LDRAW.S", 0x13#8), ("COMPT", 0x04#8),
      ("COMPP", 0x05#8), ("COMPH", 0x06#8), ("MEAS", 0x07#8), ("meas.s", 0x17#8), (".byte 0x23 ; RSV", 0x23#8)],
    assembleLine row.1.toList = .action (.write 0x00#8 row.2)) ∧
  (∀ row ∈ [("INIT", [0x01#8, 0x02#8]), ("INIT.NOID", [0x02#8]), ("READT", [0x03#8, 0x04#8]),
      ("READT.S", [0x13#8, 0x04#8]), ("READP", [0x03#8, 0x04#8, 0x05#8]), ("READP.S", [0x13#8, 0x04#8, 0x05#8]),
      ("READH", [0x03#8, 0x04#8, 0x06#8]), ("READH.S", [0x13#8, 0x04#8, 0x06#8]), ("READALL", [0x07#8]),
      ("readall.s", [0x17#8])],
    assembleLine row.1.toList = .action (.sequence row.2)) ∧
  assembleLine "; <- [60]".toList = .blank ∧ assembleLine "NOP".toList = .bad ∧
  ∀ line line' : List Char, line.map Char.toUpper = line'.map Char.toUpper → assembleLine line = assembleLine line'

/-- 42_compensation.md R99, with the numbers of 95_test_vectors.md E1, E2 and V-H1: the physical values as exact
rationals. -/
def Obligations.PhysicalValuesAreExactRationals : Prop :=
  (∀ t : BitVec 32, degreesCelsius t * 100 = t.toInt) ∧
  (∀ p : BitVec 64, pascals p * 256 = p.toInt ∧ hectopascals p * 25600 = p.toInt) ∧
  (∀ h : BitVec 32, percentHumidity h * 1024 = h.toNat) ∧
  degreesCelsius 2508#32 = 25.08 ∧ pascals 25767233#64 = 100653.25390625 ∧
  hectopascals 25767233#64 = 1006.5325390625 ∧ degreesCelsius (-14088#32) = -140.88

/-! ### State and reset (10_state.md, 70_reset_and_hazards.md) -/

/-- 10_state.md R31: the bits of `STATUS`, field by field, the reserved ones 0. -/
def Obligations.StatusWordLayout : Prop :=
  ∀ st : Status,
    (statusWord st).extractLsb' 0 2 =
      (match st.idst with | .unchecked => 0b00#2 | .ok => 0b01#2 | .mismatch => 0b10#2) ∧
    (statusWord st).getLsbD 2 = st.calValid ∧ (statusWord st).getLsbD 3 = st.rawValid ∧
    (statusWord st).getLsbD 4 = st.ftValid ∧ (statusWord st).getLsbD 5 = st.degen ∧
    (statusWord st).getLsbD 6 = st.ovf ∧ (statusWord st).getLsbD 7 = false ∧
    (statusWord st).extractLsb' 8 4 =
      (match st.err with
        | .ok => 0#4 | .transport => 1#4 | .nodev => 2#4 | .notready => 3#4 | .noraw => 4#4 | .staleft => 5#4
        | .illegal => 6#4) ∧
    (statusWord st).extractLsb' 12 4 = 0#4

/-- 10_state.md R41: what reset leaves, for every value of the parameters: `STATUS` 0x0000, every flag 0, every data
register `⊥`. -/
def Obligations.ResetLeavesStatusZeroAndBottom : Prop :=
  ∀ p : Params,
    let s := State.resetWith p
    s.status.idst = .unchecked ∧ s.status.calValid = false ∧ s.status.rawValid = false ∧ s.status.ftValid = false ∧
    s.status.degen = false ∧ s.status.ovf = false ∧ s.status.err = .ok ∧ statusWord s.status = 0x0000#16 ∧
    s.cal = none ∧ s.raw = none ∧ s.tFine = none ∧ s.tOut = none ∧ s.pOut = none ∧ s.hOut = none ∧ s.idLast = none

/-- The invariant holds at reset, for every value of the parameters (10_state.md R35, R41). -/
def Obligations.CoherentAtReset : Prop := ∀ p : Params, Coherent (State.resetWith p)

/-- 10_state.md R35: in every state a step reaches from one that has it, a set flag stands over registers that hold a
value, and `FT_VALID` over the other two flags. -/
def Obligations.StepKeepsFlagsBacked : Prop :=
  ∀ s t : State, FlagsBacked s → step s = .next t → FlagsBacked t

/-- 10_state.md R33, 70_reset_and_hazards.md R117, R118: `FT_VALID` = 1 always means that `T_FINE` is `CompT` of the
sample and the calibration now held, under either policy, and `T_OUT` with it unless `CompT` itself overflowed under
`anyvalue` (42_compensation.md R90). That a `MEAS` or `MEAS.S` whose pressure or humidity alone overflowed leaves the
computed `T_OUT` is the model's choice (log entry 6, DESIGN CHOICE; 43_measure.md R102 gives the same). -/
def Obligations.StepKeepsFineTemperatureCurrent : Prop :=
  ∀ s t : State, FineCurrent s → step s = .next t → FineCurrent t

/-- The whole invariant is kept by every step: flags (10_state.md R35), fine temperature (R33), identity record (R29, R32),
ranges of H4, H5 (R24) and `H_OUT` (42_compensation.md R98), per-command fields (60_exceptions.md R108, 42_compensation.md
R94), draws as R90 says. For `T_OUT` after a `MEAS` under `anyvalue` it rests on log entry 6 (DESIGN CHOICE; 43_measure.md
R102 gives the same). -/
def Obligations.StepKeepsCoherent : Prop :=
  ∀ s t : State, Coherent s → step s = .next t → Coherent t

/-- Every state that a run from reset reaches has the invariant (10_state.md R24, R29, R32, R33, R35, 42_compensation.md R90,
R94, R98, 60_exceptions.md R108), whatever the parameters, the transport's answers and the Host's program are. How a run
holds the answers, the free values and the program is the model's (log entries 2, 3 and 5), and so is `T_OUT` after a `MEAS`
under `anyvalue` (log entry 6, DESIGN CHOICE; 43_measure.md R102 gives the same). -/
def Obligations.ReachableStatesAreCoherent : Prop :=
  ∀ (p : Params) (replies : List (List Byte)) (program : List HostAction) (k : Nat) (t : State),
    Host.Core.run Sys2Proof.core k { State.resetWith p with
      bus := { replies := replies, requests := [] }, host := { pending := program, received := none } } = .next t →
    Coherent t

/-- 00_scope.md R21, 42_compensation.md R88: from a state whose flags are backed, no step ever reads a `⊥` register, so
the model's one fault cannot happen. -/
def Obligations.BackedStatesNeverFault : Prop :=
  ∀ (s : State) (f : Fault), FlagsBacked s → step s ≠ .fault f

/-- 10_state.md R34: the per-command fields describe the last command alone. What a command or an illegal word does
depends on none of their old values, and `DEGEN` = 1 comes with `ERR` = OK. -/
def Obligations.PerCommandFieldsAreFresh : Prop :=
  (∀ (i : Instr) (s : State) (e : ErrCode) (o d : Bool),
    exec i { s with status := { s.status with err := e, ovf := o, degen := d } } = exec i s ∧
    execIllegal { s with status := { s.status with err := e, ovf := o, degen := d } } = execIllegal s) ∧
  (∀ (i : Instr) (s t : State), exec i s = .next t → t.status.degen = true → t.status.err = .ok)

/-! ### The transport (20_memory.md) -/

/-- 20_memory.md R42, R43: of an answer the first `n` bytes are used, and a shorter answer gives none. -/
def Obligations.BurstUsesFirstBytesOrNone : Prop :=
  ∀ (n : Nat) (bs : List Byte),
    (bs.length < n → takeBurst n bs = none) ∧
    (n ≤ bs.length → ∃ v : Vector Byte n, takeBurst n bs = some v ∧ v.toList = bs.take n)

/-- 20_memory.md R46: these are the only bursts a command asks for, in the order of the table; a command that ends OK
asked for all of them. -/
def Obligations.BurstsAreThoseOfTheTable : Prop :=
  ∀ (i : Instr) (s t : State), exec i s = .next t →
    ∃ k, t.bus.requests = s.bus.requests ++ (burstsOf s.params i).take k ∧
      (t.status.err = .ok → (burstsOf s.params i).length ≤ k)

/-- 20_memory.md R43, R44: a short answer to burst number `k` raises TRANSPORT at once. No later burst is asked for, none
is asked for again, and of the bytes received nothing reaches a register. -/
def Obligations.ShortReadStopsTheCommand : Prop :=
  ∀ (i : Instr) (s : State) (k : Nat) (b : BurstRequest),
    ReachesTransport i s → (burstsOf s.params i)[k]? = some b →
    (∀ j a, j < k → (burstsOf s.params i)[j]? = some a → a.len ≤ (coming s j).length) →
    (coming s k).length < b.len →
    ∃ t, exec i s = .next t ∧ t.status.err = .transport ∧
      t.bus.requests = s.bus.requests ++ (burstsOf s.params i).take (k + 1) ∧
      t.bus.replies = s.bus.replies.drop (k + 1) ∧
      t.cal = s.cal ∧ t.raw = s.raw ∧ t.tFine = s.tFine ∧ t.tOut = s.tOut ∧ t.pOut = s.pOut ∧ t.hOut = s.hOut ∧
      t.idLast = s.idLast ∧ t.status.idst = s.status.idst

/-- 20_memory.md R42, R45, 00_scope.md R6: a step never changes the parameters, never takes back a request and never puts
an answer into the transport. -/
def Obligations.StepOnlyReadsTheTransport : Prop :=
  ∀ s t : State, step s = .next t →
    t.params = s.params ∧ s.bus.requests <+: t.bus.requests ∧ t.bus.replies <:+ s.bus.replies ∧ s.draws ≤ t.draws

/-! ### Extraction and packing (40_calibration.md, 41_raw_sample.md) -/

/-- 40_calibration.md R72, R73: the byte at the lower index is the less significant one; the signed form is the same 16
bits as two's complement. -/
def Obligations.WordsAreLittleEndian : Prop :=
  ∀ (n : Nat) (b : Vector Byte n) (i : Nat) (h : i + 1 < n),
    (u16le b i h).toNat = b[i].toNat + 256 * b[i + 1].toNat ∧
    (s16le b i h).toInt =
      if b[i + 1].toNat < 128 then (b[i].toNat + 256 * b[i + 1].toNat : Int)
      else (b[i].toNat + 256 * b[i + 1].toNat : Int) - 65536

/-- 40_calibration.md R78, R79: H4 and H5 from their whole byte and their nibble of `h[4]`, under both values of
`H45_SIGNED`, with the rules' numbers. -/
def Obligations.NibblePackedConstants : Prop :=
  (∀ h : Vector Byte 7,
    let raw4 : Nat := h[3].toNat * 16 + h[4].toNat % 16
    let raw5 : Nat := h[5].toNat * 16 + h[4].toNat / 16
    raw4 ≤ 4095 ∧ raw5 ≤ 4095 ∧
    (decodeH4 true h).toInt = (if h[3].toNat < 128 then (raw4 : Int) else (raw4 : Int) - 4096) ∧
    (decodeH5 true h).toInt = (if h[5].toNat < 128 then (raw5 : Int) else (raw5 : Int) - 4096) ∧
    (decodeH4 false h).toInt = (raw4 : Int) ∧ (decodeH5 false h).toInt = (raw5 : Int)) ∧
  (∀ signed : Bool,
    (decodeH4 signed #v[0x1E#8, 0x3C#8, 0x00#8, 0x1B#8, 0xFD#8, 0x02#8, 0x1E#8]).toInt = 445 ∧
    (decodeH5 signed #v[0x1E#8, 0x3C#8, 0x00#8, 0x1B#8, 0xFD#8, 0x02#8, 0x1E#8]).toInt = 47 ∧
    (decodeH4 signed #v[0x6A#8, 0x01#8, 0x00#8, 0x81#8, 0x2F#8, 0xF0#8, 0x9C#8]).toInt =
      (if signed then -2017 else 2079) ∧
    (decodeH5 signed #v[0x6A#8, 0x01#8, 0x00#8, 0x81#8, 0x2F#8, 0xF0#8, 0x9C#8]).toInt =
      (if signed then -254 else 3842))

/-- 40_calibration.md R74 to R77, R80, R81 with the layouts of 20_memory.md R47 to R49: which bytes each constant is read
from. -/
def Obligations.EachConstantFromItsBytes : Prop :=
  ∀ (signed : Bool) (tp : Vector Byte 24) (h1 : Vector Byte 1) (h : Vector Byte 7),
    let c := decodeCal signed tp h1 h
    (∀ k, ∀ hk : k < 12,
      ([c.t1, c.t2, c.t3, c.p1, c.p2, c.p3, c.p4, c.p5, c.p6, c.p7, c.p8, c.p9][k]'hk).toNat =
        tp[2 * k].toNat + 256 * tp[2 * k + 1].toNat) ∧
    c.h1 = h1[0] ∧ c.h2.toNat = h[0].toNat + 256 * h[1].toNat ∧ c.h3 = h[2] ∧
    c.h4 = decodeH4 signed h ∧ c.h5 = decodeH5 signed h ∧ c.h6 = h[6]

/-- 41_raw_sample.md R84, R85: the packed values, the XLSB's low nibble without effect, and the rules' numbers. -/
def Obligations.RawPackingIsMsbFirst : Prop :=
  (∀ msb lsb xlsb : Byte,
    (pack20 msb lsb xlsb).toNat = msb.toNat * 4096 + lsb.toNat * 16 + xlsb.toNat / 16 ∧
    (pack16 msb lsb).toNat = msb.toNat * 256 + lsb.toNat ∧
    ∀ xlsb' : Byte, xlsb'.toNat / 16 = xlsb.toNat / 16 → pack20 msb lsb xlsb' = pack20 msb lsb xlsb) ∧
  pack20 0x65#8 0x5A#8 0xC0#8 = 415148#20 ∧ pack20 0x65#8 0x5A#8 0xCF#8 = 415148#20 ∧
  pack20 0x7E#8 0xED#8 0x00#8 = 519888#20 ∧ pack16 0x75#8 0x30#8 = 30000#16

/-! ### The commands (40_calibration.md to 43_measure.md) -/

/-- 40_calibration.md R82: `IDCHK` on every state, by the first byte of the transport's answer, with the word and the two
`STATUS` values of its example. -/
def Obligations.IdchkRecordsTheIdentity : Prop :=
  encode .idchk = 0x01#8 ∧
  (∀ s : State,
    let t := afterBursts [⟨s.params.devAddr, s.params.regId.toNat, 1⟩] { s with status := cleared s.status }
    (coming s 0 = [] → exec .idchk s = .next { t with status := { t.status with err := .transport } }) ∧
    (∀ b more, coming s 0 = b :: more →
      exec .idchk s = .next (if b = s.params.idExpected then
        { t with idLast := some b, status := { t.status with idst := .ok } }
      else { t with idLast := some b, status := { t.status with idst := .mismatch, err := .nodev } }))) ∧
  statusWord { Status.reset with idst := .ok } = 0x0001#16 ∧
  statusWord { Status.reset with idst := .mismatch, err := .nodev } = 0x0202#16

/-- 40_calibration.md R83: `LDCAL` when the transport answers its three bursts in full, on every state. -/
def Obligations.LdcalLoadsTheWholeStore : Prop :=
  ∀ (s : State) (tp : Vector Byte 24) (h1 : Vector Byte 1) (h : Vector Byte 7),
    takeBurst 24 (coming s 0) = some tp → takeBurst 1 (coming s 1) = some h1 → takeBurst 7 (coming s 2) = some h →
    exec .ldcal s = .next { afterBursts (burstsOf s.params .ldcal) s with
      cal := some (decodeCal s.params.h45Signed tp h1 h)
      status := { cleared s.status with calValid := true, ftValid := false } }

/-- 40_calibration.md R83, its TRANSPORT case: a short answer to any of the three bursts leaves the Store alone, clears
`CAL_VALID` and `FT_VALID`, and the later bursts are not read. -/
def Obligations.LdcalShortReadLeavesTheStore : Prop :=
  ∀ s : State,
    let failed (n : Nat) := Host.Outcome.next (φ := Fault) (ρ := Refusal)
      { afterBursts ((burstsOf s.params .ldcal).take n) s with
        status := { cleared s.status with calValid := false, ftValid := false, err := .transport } }
    ((coming s 0).length < 24 → exec .ldcal s = failed 1) ∧
    (24 ≤ (coming s 0).length → (coming s 1).length < 1 → exec .ldcal s = failed 2) ∧
    (24 ≤ (coming s 0).length → 1 ≤ (coming s 1).length → (coming s 2).length < 7 → exec .ldcal s = failed 3)

/-- 41_raw_sample.md R86: `LDRAW` on every state: refused while the identity is wrong, TRANSPORT on a short answer, else
the packed sample. -/
def Obligations.LdrawReadsOneBurst : Prop :=
  encode .ldraw = 0x03#8 ∧
  ∀ s : State,
    let t := afterBursts [⟨s.params.devAddr, s.params.regData.toNat, 8⟩]
      { s with status := { cleared s.status with ftValid := false } }
    (s.status.idst = .mismatch →
      exec .ldraw s = .next { s with status := { cleared s.status with err := .notready } }) ∧
    (s.status.idst ≠ .mismatch → (coming s 0).length < 8 →
      exec .ldraw s = .next { t with status := { t.status with rawValid := false, err := .transport } }) ∧
    (∀ d0 d1 d2 d3 d4 d5 d6 d7 more, s.status.idst ≠ .mismatch →
      coming s 0 = d0 :: d1 :: d2 :: d3 :: d4 :: d5 :: d6 :: d7 :: more →
      exec .ldraw s = .next { t with
        raw := some { p := pack20 d0 d1 d2, t := pack20 d3 d4 d5, h := pack16 d6 d7 }
        status := { t.status with rawValid := true } })

/-- 41_raw_sample.md R87: `LDRAW.S` on every state: refused while the identity is wrong, TRANSPORT on the first short
answer, else the packed sample. -/
def Obligations.LdrawSplitReadsThreeBursts : Prop :=
  encode .ldrawS = 0x13#8 ∧
  ∀ s : State,
    let asked (n : Nat) := afterBursts ((burstsOf s.params .ldrawS).take n)
      { s with status := { cleared s.status with ftValid := false } }
    let failed (n : Nat) := Host.Outcome.next (φ := Fault) (ρ := Refusal)
      { asked n with status := { (asked n).status with rawValid := false, err := .transport } }
    (s.status.idst = .mismatch →
      exec .ldrawS s = .next { s with status := { cleared s.status with err := .notready } }) ∧
    (s.status.idst ≠ .mismatch →
      ((coming s 0).length < 3 → exec .ldrawS s = failed 1) ∧
      (3 ≤ (coming s 0).length → (coming s 1).length < 3 → exec .ldrawS s = failed 2) ∧
      (3 ≤ (coming s 0).length → 3 ≤ (coming s 1).length → (coming s 2).length < 2 → exec .ldrawS s = failed 3) ∧
      (∀ p0 p1 p2 t0 t1 t2 h0 h1 more0 more1 more2, coming s 0 = p0 :: p1 :: p2 :: more0 →
        coming s 1 = t0 :: t1 :: t2 :: more1 → coming s 2 = h0 :: h1 :: more2 →
        exec .ldrawS s = .next { asked 3 with
          raw := some { p := pack20 p0 p1 p2, t := pack20 t0 t1 t2, h := pack16 h0 h1 }
          status := { (asked 3).status with rawValid := true } }))

/-- 42_compensation.md R88: the checks of `COMPT`, `COMPP` and `COMPH` in their order. A refused command writes nothing
but `ERR` after the clears, and one that passes reads no `⊥` register in a state whose flags are backed. -/
def Obligations.CompensationChecksInOrder : Prop :=
  ∀ (s : State) (i : Instr), i ∈ [.compt, .compp, .comph] →
    let refusedWith (e : ErrCode) := exec i s = .next { s with status := { cleared s.status with err := e } }
    if s.status.idst = .mismatch ∨ s.status.calValid = false then refusedWith .notready
    else if s.status.rawValid = false then refusedWith .noraw
    else if i ≠ .compt ∧ s.status.ftValid = false then refusedWith .staleft
    else FlagsBacked s → ∃ t, exec i s = .next t ∧ t.status.err = .ok

/-- 42_compensation.md R92: `COMPT` computes `CompT` of its registers and writes `T_FINE`, `T_OUT`, `FT_VALID` and `OVF`,
nothing else (policy `wrap`, or no overflow). Under either policy a second `COMPT` gives the same `T_FINE` and keeps
`FT_VALID` = 1. -/
def Obligations.ComptComputesTemperature : Prop :=
  encode .compt = 0x04#8 ∧
  ∀ (s : State) (c : Calibration) (r : RawSample), ReadyForTemperature s c r →
    let x := compT r.t c.t1 c.t2 c.t3
    (Computed s x.ovf →
      exec .compt s = .next { s with
        tFine := some x.fine, tOut := some x.tout
        status := { cleared s.status with ftValid := true, ovf := x.ovf } }) ∧
    ∃ t u, exec .compt s = .next t ∧ exec .compt t = .next u ∧
      t.tFine = some x.fine ∧ t.status.ftValid = true ∧ u.tFine = some x.fine ∧ u.status.ftValid = true

/-- 42_compensation.md R94: `COMPP` computes `CompP` of its registers and writes `P_OUT`, `DEGEN` and `OVF`, nothing else
(policy `wrap`, or no overflow). -/
def Obligations.ComppComputesPressure : Prop :=
  encode .compp = 0x05#8 ∧
  ∀ (s : State) (c : Calibration) (r : RawSample) (fine : BitVec 32), ReadyForFine s c r fine →
    let x := compP r.p c.p1 c.p2 c.p3 c.p4 c.p5 c.p6 c.p7 c.p8 c.p9 fine
    Computed s x.ovf →
    exec .compp s = .next { s with
      pOut := some x.p
      status := { cleared s.status with degen := x.degen, ovf := x.ovf } }

/-- 42_compensation.md R97: `COMPH` computes `CompH` of its registers and writes `H_OUT` and `OVF`, nothing else (policy
`wrap`, or no overflow). -/
def Obligations.ComphComputesHumidity : Prop :=
  encode .comph = 0x06#8 ∧
  ∀ (s : State) (c : Calibration) (r : RawSample) (fine : BitVec 32), ReadyForFine s c r fine →
    let x := compH r.h c.h1 c.h2 c.h3 c.h4 c.h5 c.h6 fine
    Computed s x.ovf →
    exec .comph s = .next { s with
      hOut := some x.h
      status := { cleared s.status with ovf := x.ovf } }

/-- 42_compensation.md R93, R94: a calibration with P1 = 0 is always degenerate, and the degenerate path gives the
sentinel 0 without an error. -/
def Obligations.DegenerateCalibrationGivesZero : Prop :=
  (∀ (rawP : BitVec 20) (p2 p3 p4 p5 p6 p7 p8 p9 : BitVec 16) (fine : BitVec 32),
    (compP rawP 0#16 p2 p3 p4 p5 p6 p7 p8 p9 fine).degen = true) ∧
  (∀ (rawP : BitVec 20) (p1 p2 p3 p4 p5 p6 p7 p8 p9 : BitVec 16) (fine : BitVec 32),
    (compP rawP p1 p2 p3 p4 p5 p6 p7 p8 p9 fine).degen = true →
    (compP rawP p1 p2 p3 p4 p5 p6 p7 p8 p9 fine).p = 0#64) ∧
  (∀ (s : State) (c : Calibration) (r : RawSample) (fine : BitVec 32), ReadyForFine s c r fine →
    (pressureOf c r fine).degen = true → Computed s (pressureOf c r fine).ovf →
    ∃ t, exec .compp s = .next t ∧ t.pOut = some 0#64 ∧ t.status.degen = true ∧ t.status.err = .ok)

/-- 42_compensation.md R90 under `anyvalue`: an overflowing command still ends OK with `OVF` = 1, and each of its output
registers receives a free value; `T_FINE`, which is no output register, still receives `fine`, and what `CompP` says about
degeneracy still holds. The counter of draws is the model's (log entry 3). -/
def Obligations.OverflowUnderAnyvalueDraws : Prop :=
  ∀ (s : State) (c : Calibration) (r : RawSample), s.params.ovfPolicy = .anyvalue →
    (ReadyForTemperature s c r → (temperatureOf c r).ovf = true →
      exec .compt s = .next { s with
        tFine := some (temperatureOf c r).fine, tOut := some (Config.anyTemperature s.draws), draws := s.draws + 1
        status := { cleared s.status with ftValid := true, ovf := true } }) ∧
    (∀ fine, ReadyForFine s c r fine → (pressureOf c r fine).ovf = true →
      exec .compp s = .next { s with
        pOut := some (Config.anyPressure s.draws), draws := s.draws + 1
        status := { cleared s.status with degen := (pressureOf c r fine).degen, ovf := true } }) ∧
    (∀ fine, ReadyForFine s c r fine → (humidityOf c r fine).ovf = true →
      exec .comph s = .next { s with
        hOut := some (BitVec.ofNat 32 (Config.anyHumidity s.draws).val), draws := s.draws + 1
        status := { cleared s.status with ovf := true } })

/-- 42_compensation.md R98: after every `COMPH`, `MEAS` or `MEAS.S` that ends OK, `H_OUT` is in 0 .. 102400, that is 0 to
100 %, whatever the inputs, `OVF` or `OVF_POLICY`. -/
def Obligations.HumidityOutputIsClamped : Prop :=
  ∀ (i : Instr) (s t : State), i ∈ [.comph, .meas, .measS] → exec i s = .next t → t.status.err = .ok →
    ∃ h, t.hOut = some h ∧ h.toNat ≤ 102400 ∧ 0 ≤ percentHumidity h ∧ percentHumidity h ≤ 100

/-- 43_measure.md R100: `MEAS` on every state: NOTREADY before any read, TRANSPORT on a short answer, else the sample and
the three results (policy `wrap`, or no overflow). -/
def Obligations.MeasReadsAndComputesAll : Prop :=
  encode .meas = 0x07#8 ∧
  ∀ s : State,
    (s.status.idst = .mismatch ∨ s.status.calValid = false →
      exec .meas s = .next { s with status := { cleared s.status with err := .notready } }) ∧
    ∀ c, ReadyToMeasure s c →
      let asked := afterBursts (burstsOf s.params .meas) s
      ((coming s 0).length < 8 →
        exec .meas s = .next { asked with
          status := { cleared s.status with rawValid := false, ftValid := false, err := .transport } }) ∧
      (∀ d0 d1 d2 d3 d4 d5 d6 d7 more, coming s 0 = d0 :: d1 :: d2 :: d3 :: d4 :: d5 :: d6 :: d7 :: more →
        let r : RawSample := { p := pack20 d0 d1 d2, t := pack20 d3 d4 d5, h := pack16 d6 d7 }
        let x := compT r.t c.t1 c.t2 c.t3
        let y := compP r.p c.p1 c.p2 c.p3 c.p4 c.p5 c.p6 c.p7 c.p8 c.p9 x.fine
        let z := compH r.h c.h1 c.h2 c.h3 c.h4 c.h5 c.h6 x.fine
        Computed s (x.ovf || y.ovf || z.ovf) →
        exec .meas s = .next { asked with
          raw := some r, tFine := some x.fine, tOut := some x.tout, pOut := some y.p, hOut := some z.h
          status := { cleared s.status with
            rawValid := true, ftValid := true, degen := y.degen, ovf := x.ovf || y.ovf || z.ovf } })

/-- 43_measure.md R101: `MEAS.S` on every state: the same with the three bursts of `LDRAW.S` (policy `wrap`, or no
overflow). -/
def Obligations.MeasSplitReadsAndComputesAll : Prop :=
  encode .measS = 0x17#8 ∧
  ∀ s : State,
    (s.status.idst = .mismatch ∨ s.status.calValid = false →
      exec .measS s = .next { s with status := { cleared s.status with err := .notready } }) ∧
    ∀ c, ReadyToMeasure s c →
      let asked (n : Nat) := afterBursts ((burstsOf s.params .measS).take n) s
      let failed (n : Nat) := Host.Outcome.next (φ := Fault) (ρ := Refusal)
        { asked n with status := { cleared s.status with rawValid := false, ftValid := false, err := .transport } }
      ((coming s 0).length < 3 → exec .measS s = failed 1) ∧
      (3 ≤ (coming s 0).length → (coming s 1).length < 3 → exec .measS s = failed 2) ∧
      (3 ≤ (coming s 0).length → 3 ≤ (coming s 1).length → (coming s 2).length < 2 → exec .measS s = failed 3) ∧
      (∀ p0 p1 p2 t0 t1 t2 h0 h1 more0 more1 more2, coming s 0 = p0 :: p1 :: p2 :: more0 →
        coming s 1 = t0 :: t1 :: t2 :: more1 → coming s 2 = h0 :: h1 :: more2 →
        let r : RawSample := { p := pack20 p0 p1 p2, t := pack20 t0 t1 t2, h := pack16 h0 h1 }
        let x := compT r.t c.t1 c.t2 c.t3
        let y := compP r.p c.p1 c.p2 c.p3 c.p4 c.p5 c.p6 c.p7 c.p8 c.p9 x.fine
        let z := compH r.h c.h1 c.h2 c.h3 c.h4 c.h5 c.h6 x.fine
        Computed s (x.ovf || y.ovf || z.ovf) →
        exec .measS s = .next { asked 3 with
          raw := some r, tFine := some x.fine, tOut := some x.tout, pOut := some y.p, hOut := some z.h
          status := { cleared s.status with
            rawValid := true, ftValid := true, degen := y.degen, ovf := x.ovf || y.ovf || z.ovf } })

/-- 43_measure.md R102: when the identity is not wrong, the calibration is valid and the transport answers in full, `MEAS`
(resp. `MEAS.S`) leaves every data register, persistent flag and agent field as `LDRAW ; COMPT ; COMPP ; COMPH` (resp. with
`LDRAW.S`) does; its `OVF` is the OR over the three computations and its `DEGEN` that of the pressure part, where after the
sequence `DEGEN` is `COMPH`'s 0; and with `CAL_VALID` = 0 it is refused before it reads the transport, which the raw command
reads. Under `anyvalue` both runs draw the same free values, because both start at one counter (log entry 3), and
`MEAS` draws only where a function itself overflowed (log entry 6): those parts are the model's. -/
def Obligations.MeasEqualsTheFourCommands : Prop :=
  ∀ pair ∈ [(Instr.meas, Instr.ldraw), (Instr.measS, Instr.ldrawS)],
    (∀ (s : State) (c : Calibration), ReadyToMeasure s c →
      (∀ j b, (burstsOf s.params pair.1)[j]? = some b → b.len ≤ (coming s j).length) →
      ∃ m t1 t2 t3 t4, exec pair.1 s = .next m ∧
        exec pair.2 s = .next t1 ∧ exec .compt t1 = .next t2 ∧ exec .compp t2 = .next t3 ∧ exec .comph t3 = .next t4 ∧
        { m with status := cleared m.status } = { t4 with status := cleared t4.status } ∧
        m.status.err = .ok ∧ t4.status.err = .ok ∧ t4.status.degen = false ∧
        m.status.ovf = (t2.status.ovf || t3.status.ovf || t4.status.ovf) ∧ m.status.degen = t3.status.degen) ∧
    (∀ s : State, s.status.idst ≠ .mismatch → s.status.calValid = false →
      exec pair.1 s = .next { s with status := { cleared s.status with err := .notready } } ∧
      ∃ t k, exec pair.2 s = .next t ∧ 0 < k ∧ t.bus.requests = s.bus.requests ++ (burstsOf s.params pair.2).take k)

/-! ### Whole-machine rules (10_state.md, 60_exceptions.md, 70_reset_and_hazards.md) -/

/-- What each command leaves unchanged when it gives a next state (10_state.md R25 to R29, R33; the "Flags written" of each
command's rule). No command touches the parameters or the Host; there is no memory. -/
def Obligations.CommandsLeaveTheRestUnchanged : Prop :=
  ∀ (i : Instr) (s t : State), exec i s = .next t →
    t.params = s.params ∧ t.host = s.host ∧
    (i ≠ .idchk → t.idLast = s.idLast ∧ t.status.idst = s.status.idst) ∧
    (i ≠ .ldcal → t.cal = s.cal ∧ t.status.calValid = s.status.calValid) ∧
    (i ∉ [.ldraw, .ldrawS, .meas, .measS] → t.raw = s.raw ∧ t.status.rawValid = s.status.rawValid) ∧
    (i ∉ [.compt, .meas, .measS] → t.tFine = s.tFine ∧ t.tOut = s.tOut) ∧
    (i ∉ [.compp, .meas, .measS] → t.pOut = s.pOut ∧ t.status.degen = false) ∧
    (i ∉ [.comph, .meas, .measS] → t.hOut = s.hOut) ∧
    (i ∉ [.compt, .compp, .comph, .meas, .measS] → t.status.ovf = false) ∧
    (i ∈ [.idchk, .compp, .comph] → t.status.ftValid = s.status.ftValid) ∧
    (i ∈ [.compt, .compp, .comph] → t.bus = s.bus)

/-- 60_exceptions.md R106, R107: a command that ends with an error writes no data register, except `ID_LAST` on NODEV, and
leaves `OVF` and `DEGEN` clear. -/
def Obligations.ErrorsWriteNoDataRegister : Prop :=
  ∀ (i : Instr) (s t : State), exec i s = .next t → t.status.err ≠ .ok →
    t.cal = s.cal ∧ t.raw = s.raw ∧ t.tFine = s.tFine ∧ t.tOut = s.tOut ∧ t.pOut = s.pOut ∧ t.hOut = s.hOut ∧
    (t.status.err ≠ .nodev → t.idLast = s.idLast ∧ t.status.idst = s.status.idst) ∧
    t.status.ovf = false ∧ t.status.degen = false

/-- 10_state.md R32, 60_exceptions.md R105: while `IDST` = MISMATCH every command that reads a raw sample or computes a
result is refused with NOTREADY, with no transport read and nothing else written. -/
def Obligations.MismatchRefusesEveryMeasurement : Prop :=
  ∀ (i : Instr) (s : State), s.status.idst = .mismatch → i ∉ [.idchk, .ldcal] →
    exec i s = .next { s with status := { cleared s.status with err := .notready } }

/-- 10_state.md R32: of all steps of the machine only a successful `IDCHK` leaves MISMATCH. -/
def Obligations.OnlyIdchkLeavesMismatch : Prop :=
  ∀ s t : State, s.status.idst = .mismatch → step s = .next t → t.status.idst ≠ .mismatch →
    t.status.idst = .ok ∧ t.status.err = .ok ∧ t.idLast = some s.params.idExpected ∧
    ∃ rest, s.host.pending = .write 0x00#8 0x01#8 :: rest ∨
      ∃ words, s.host.pending = .sequence (0x01#8 :: words) :: rest

/-- 10_state.md R25, 70_reset_and_hazards.md R117: of all steps only a write of `LDCAL`'s word changes the Calibration
Store, and it then clears `FT_VALID`. -/
def Obligations.OnlyLdcalWritesTheStore : Prop :=
  ∀ s t : State, step s = .next t → t.cal ≠ s.cal →
    t.status.calValid = true ∧ t.status.ftValid = false ∧ t.status.err = .ok ∧
    ∃ rest, s.host.pending = .write 0x00#8 0x02#8 :: rest ∨
      ∃ words, s.host.pending = .sequence (0x02#8 :: words) :: rest

/-- 70_reset_and_hazards.md R118, 10_state.md R33: a raw read that reaches the transport, unless it is the raw part of a
`MEAS` or `MEAS.S` that ends OK, leaves `FT_VALID` = 0; of all steps only a `COMPT`, `MEAS` or `MEAS.S` that ends OK takes
`FT_VALID` from 0 to 1; and while it is 0, `COMPP` and `COMPH` write nothing but an error, STALEFT when no earlier check
fails. -/
def Obligations.NewCycleNeedsTemperatureFirst : Prop :=
  (∀ (s t : State) (i : Instr), i ∈ [.ldraw, .ldrawS, .meas, .measS] → ReachesTransport i s → exec i s = .next t →
    i ∈ [.ldraw, .ldrawS] ∨ t.status.err ≠ .ok → t.status.ftValid = false) ∧
  (∀ s t : State, s.status.ftValid = false → step s = .next t → t.status.ftValid = true →
    t.status.err = .ok ∧ ∃ w ∈ [0x04#8, 0x07#8, 0x17#8], ∃ rest,
      s.host.pending = .write 0x00#8 w :: rest ∨ ∃ words, s.host.pending = .sequence (w :: words) :: rest) ∧
  (∀ (s : State) (i : Instr), i ∈ [.compp, .comph] → s.status.ftValid = false →
    ∃ e ∈ [ErrCode.notready, .noraw, .staleft],
      exec i s = .next { s with status := { cleared s.status with err := e } } ∧
      (s.status.idst ≠ .mismatch → s.status.calValid = true → s.status.rawValid = true → e = .staleft))
end

