-- ==== Sys2Proof/Laws/Arith.lean ====
section
/-! SUPPORT. What the arithmetic primitives do: their ranges, when they are exact, and their meaning as two's-complement
words (00_scope.md R10 to R14). -/

namespace Sys2Proof.Machine

theorem two_pow_pred (n : Nat) (h : 0 < n) : (2 : Int) ^ n = 2 * 2 ^ (n - 1) := by
  obtain ⟨m, rfl⟩ : ∃ m, n = m + 1 := ⟨n - 1, by omega⟩
  simp [pow_succ, mul_comm]

theorem wrap_mem (n : Nat) (x : Int) (h : 0 < n) : -2 ^ (n - 1) ≤ wrap n x ∧ wrap n x < 2 ^ (n - 1) := by
  have hp := two_pow_pred n h
  have pos : (0 : Int) < 2 ^ (n - 1) := by positivity
  have hm : ((2 ^ n : Nat) : Int) = 2 * 2 ^ (n - 1) := by push_cast; exact hp
  unfold wrap
  have lo := Int.le_bmod (x := x) (m := 2 ^ n) (by positivity)
  have hi := Int.bmod_lt (x := x) (m := 2 ^ n) (by positivity)
  constructor <;> omega

theorem wrap_of_mem {n : Nat} {x : Int} (lo : -2 ^ (n - 1) ≤ x) (hi : x < 2 ^ (n - 1)) (h : 0 < n) :
    wrap n x = x := by
  have hm : ((2 ^ n : Nat) : Int) = 2 * 2 ^ (n - 1) := by push_cast; exact two_pow_pred n h
  unfold wrap
  apply Int.bmod_eq_of_le <;> omega

theorem dvd_wrap_sub (n : Nat) (x : Int) : (2 ^ n : Int) ∣ wrap n x - x := by
  have := Int.dvd_bmod_sub_self (x := x) (m := 2 ^ n)
  simpa [wrap] using this

theorem inRange_iff (n : Nat) (x : Int) : inRange n x = true ↔ -2 ^ (n - 1) ≤ x ∧ x < 2 ^ (n - 1) := by
  simp [inRange]

/-- A primitive whose exact result is in range gives it and hands the indicator on (00_scope.md R11, R15). -/
theorem narrow_of_inRange {n : Nat} {x : Int} {o : Bool} (h : 0 < n) (fits : inRange n x = true) :
    narrow n x o = (x, o) := by
  obtain ⟨lo, hi⟩ := (inRange_iff n x).1 fits
  simp [narrow, wrap_of_mem lo hi h, fits]

@[simp] theorem narrow_fst (n : Nat) (x : Int) (o : Bool) : (narrow n x o).1 = wrap n x := rfl
@[simp] theorem narrow_snd (n : Nat) (x : Int) (o : Bool) : (narrow n x o).2 = (o || !inRange n x) := rfl

/-! ### The primitives as two's-complement words: a value is pulled out of its operands' values -/

theorem wrap_add_toInt {n : Nat} (x y : BitVec n) : wrap n (x.toInt + y.toInt) = (x + y).toInt :=
  (BitVec.toInt_add x y).symm

theorem wrap_sub_toInt {n : Nat} (x y : BitVec n) : wrap n (x.toInt - y.toInt) = (x - y).toInt :=
  BitVec.toInt_sub.symm

theorem wrap_mul_toInt {n : Nat} (x y : BitVec n) : wrap n (x.toInt * y.toInt) = (x * y).toInt :=
  (BitVec.toInt_mul x y).symm

theorem wrap_shl_toInt {n : Nat} (x : BitVec n) (k : Nat) : wrap n (x.toInt * 2 ^ k) = (x <<< k).toInt := by
  rw [BitVec.toInt_shiftLeft, wrap, BitVec.toInt_eq_toNat_bmod, Int.bmod_mul_bmod]
  simp [Nat.shiftLeft_eq]

theorem wrap_div_toInt {n : Nat} (x y : BitVec n) : wrap n (x.toInt.tdiv y.toInt) = (x.sdiv y).toInt :=
  (BitVec.toInt_sdiv x y).symm

theorem asrN_toInt {n : Nat} (x : BitVec n) (k : Nat) : asrN x.toInt k = (x.sshiftRight k).toInt := by
  rw [BitVec.toInt_sshiftRight, Int.shiftRight_eq_div_pow, asrN]
  simp

/-- An unsigned register enters a wider computation by its value (00_scope.md R8). -/
theorem toNat_eq_toInt_setWidth {m n : Nat} (x : BitVec m) (h : m < n) : (x.toNat : Int) = (x.setWidth n).toInt := by
  have hx : x.toNat < 2 ^ (n - 1) := lt_of_lt_of_le x.isLt (Nat.pow_le_pow_right (by decide) (by omega))
  have hn : 2 ^ n = 2 * 2 ^ (n - 1) := by
    obtain ⟨k, rfl⟩ : ∃ k, n = k + 1 := ⟨n - 1, by omega⟩
    simp [pow_succ, mul_comm]
  rw [BitVec.toInt_setWidth, Int.bmod_eq_of_le] <;> omega

/-- A signed register enters a wider computation by its value (00_scope.md R8). -/
theorem toInt_eq_toInt_signExtend {m n : Nat} (x : BitVec m) (h : m ≤ n) : x.toInt = (x.signExtend n).toInt :=
  (BitVec.toInt_signExtend_of_le h).symm

end Sys2Proof.Machine
end

