-- ==== Sys2Proof/Laws/State.lean ====
section
/-! SUPPORT. One lemma per field of `State` and per update: what the update leaves in the field. No later proof unfolds a
record update. -/

namespace Sys2Proof.Machine

/-! ### beginCommand -/

@[simp] theorem beginCommand_params (s : State) : (beginCommand s).params = s.params := rfl
@[simp] theorem beginCommand_status (s : State) : (beginCommand s).status = { s.status with err := .ok, ovf := false, degen := false } := rfl
@[simp] theorem beginCommand_cal (s : State) : (beginCommand s).cal = s.cal := rfl
@[simp] theorem beginCommand_raw (s : State) : (beginCommand s).raw = s.raw := rfl
@[simp] theorem beginCommand_tFine (s : State) : (beginCommand s).tFine = s.tFine := rfl
@[simp] theorem beginCommand_tOut (s : State) : (beginCommand s).tOut = s.tOut := rfl
@[simp] theorem beginCommand_pOut (s : State) : (beginCommand s).pOut = s.pOut := rfl
@[simp] theorem beginCommand_hOut (s : State) : (beginCommand s).hOut = s.hOut := rfl
@[simp] theorem beginCommand_idLast (s : State) : (beginCommand s).idLast = s.idLast := rfl
@[simp] theorem beginCommand_bus (s : State) : (beginCommand s).bus = s.bus := rfl
@[simp] theorem beginCommand_draws (s : State) : (beginCommand s).draws = s.draws := rfl
@[simp] theorem beginCommand_host (s : State) : (beginCommand s).host = s.host := rfl

/-! ### setErr -/

@[simp] theorem setErr_params (e : ErrCode) (s : State) : (setErr e s).params = s.params := rfl
@[simp] theorem setErr_status (e : ErrCode) (s : State) : (setErr e s).status = { s.status with err := e } := rfl
@[simp] theorem setErr_cal (e : ErrCode) (s : State) : (setErr e s).cal = s.cal := rfl
@[simp] theorem setErr_raw (e : ErrCode) (s : State) : (setErr e s).raw = s.raw := rfl
@[simp] theorem setErr_tFine (e : ErrCode) (s : State) : (setErr e s).tFine = s.tFine := rfl
@[simp] theorem setErr_tOut (e : ErrCode) (s : State) : (setErr e s).tOut = s.tOut := rfl
@[simp] theorem setErr_pOut (e : ErrCode) (s : State) : (setErr e s).pOut = s.pOut := rfl
@[simp] theorem setErr_hOut (e : ErrCode) (s : State) : (setErr e s).hOut = s.hOut := rfl
@[simp] theorem setErr_idLast (e : ErrCode) (s : State) : (setErr e s).idLast = s.idLast := rfl
@[simp] theorem setErr_bus (e : ErrCode) (s : State) : (setErr e s).bus = s.bus := rfl
@[simp] theorem setErr_draws (e : ErrCode) (s : State) : (setErr e s).draws = s.draws := rfl
@[simp] theorem setErr_host (e : ErrCode) (s : State) : (setErr e s).host = s.host := rfl

/-! ### setIdst -/

@[simp] theorem setIdst_params (v : IdState) (s : State) : (setIdst v s).params = s.params := rfl
@[simp] theorem setIdst_status (v : IdState) (s : State) : (setIdst v s).status = { s.status with idst := v } := rfl
@[simp] theorem setIdst_cal (v : IdState) (s : State) : (setIdst v s).cal = s.cal := rfl
@[simp] theorem setIdst_raw (v : IdState) (s : State) : (setIdst v s).raw = s.raw := rfl
@[simp] theorem setIdst_tFine (v : IdState) (s : State) : (setIdst v s).tFine = s.tFine := rfl
@[simp] theorem setIdst_tOut (v : IdState) (s : State) : (setIdst v s).tOut = s.tOut := rfl
@[simp] theorem setIdst_pOut (v : IdState) (s : State) : (setIdst v s).pOut = s.pOut := rfl
@[simp] theorem setIdst_hOut (v : IdState) (s : State) : (setIdst v s).hOut = s.hOut := rfl
@[simp] theorem setIdst_idLast (v : IdState) (s : State) : (setIdst v s).idLast = s.idLast := rfl
@[simp] theorem setIdst_bus (v : IdState) (s : State) : (setIdst v s).bus = s.bus := rfl
@[simp] theorem setIdst_draws (v : IdState) (s : State) : (setIdst v s).draws = s.draws := rfl
@[simp] theorem setIdst_host (v : IdState) (s : State) : (setIdst v s).host = s.host := rfl

/-! ### setCalValid -/

@[simp] theorem setCalValid_params (v : Bool) (s : State) : (setCalValid v s).params = s.params := rfl
@[simp] theorem setCalValid_status (v : Bool) (s : State) : (setCalValid v s).status = { s.status with calValid := v } := rfl
@[simp] theorem setCalValid_cal (v : Bool) (s : State) : (setCalValid v s).cal = s.cal := rfl
@[simp] theorem setCalValid_raw (v : Bool) (s : State) : (setCalValid v s).raw = s.raw := rfl
@[simp] theorem setCalValid_tFine (v : Bool) (s : State) : (setCalValid v s).tFine = s.tFine := rfl
@[simp] theorem setCalValid_tOut (v : Bool) (s : State) : (setCalValid v s).tOut = s.tOut := rfl
@[simp] theorem setCalValid_pOut (v : Bool) (s : State) : (setCalValid v s).pOut = s.pOut := rfl
@[simp] theorem setCalValid_hOut (v : Bool) (s : State) : (setCalValid v s).hOut = s.hOut := rfl
@[simp] theorem setCalValid_idLast (v : Bool) (s : State) : (setCalValid v s).idLast = s.idLast := rfl
@[simp] theorem setCalValid_bus (v : Bool) (s : State) : (setCalValid v s).bus = s.bus := rfl
@[simp] theorem setCalValid_draws (v : Bool) (s : State) : (setCalValid v s).draws = s.draws := rfl
@[simp] theorem setCalValid_host (v : Bool) (s : State) : (setCalValid v s).host = s.host := rfl

/-! ### setRawValid -/

@[simp] theorem setRawValid_params (v : Bool) (s : State) : (setRawValid v s).params = s.params := rfl
@[simp] theorem setRawValid_status (v : Bool) (s : State) : (setRawValid v s).status = { s.status with rawValid := v } := rfl
@[simp] theorem setRawValid_cal (v : Bool) (s : State) : (setRawValid v s).cal = s.cal := rfl
@[simp] theorem setRawValid_raw (v : Bool) (s : State) : (setRawValid v s).raw = s.raw := rfl
@[simp] theorem setRawValid_tFine (v : Bool) (s : State) : (setRawValid v s).tFine = s.tFine := rfl
@[simp] theorem setRawValid_tOut (v : Bool) (s : State) : (setRawValid v s).tOut = s.tOut := rfl
@[simp] theorem setRawValid_pOut (v : Bool) (s : State) : (setRawValid v s).pOut = s.pOut := rfl
@[simp] theorem setRawValid_hOut (v : Bool) (s : State) : (setRawValid v s).hOut = s.hOut := rfl
@[simp] theorem setRawValid_idLast (v : Bool) (s : State) : (setRawValid v s).idLast = s.idLast := rfl
@[simp] theorem setRawValid_bus (v : Bool) (s : State) : (setRawValid v s).bus = s.bus := rfl
@[simp] theorem setRawValid_draws (v : Bool) (s : State) : (setRawValid v s).draws = s.draws := rfl
@[simp] theorem setRawValid_host (v : Bool) (s : State) : (setRawValid v s).host = s.host := rfl

/-! ### setFtValid -/

@[simp] theorem setFtValid_params (v : Bool) (s : State) : (setFtValid v s).params = s.params := rfl
@[simp] theorem setFtValid_status (v : Bool) (s : State) : (setFtValid v s).status = { s.status with ftValid := v } := rfl
@[simp] theorem setFtValid_cal (v : Bool) (s : State) : (setFtValid v s).cal = s.cal := rfl
@[simp] theorem setFtValid_raw (v : Bool) (s : State) : (setFtValid v s).raw = s.raw := rfl
@[simp] theorem setFtValid_tFine (v : Bool) (s : State) : (setFtValid v s).tFine = s.tFine := rfl
@[simp] theorem setFtValid_tOut (v : Bool) (s : State) : (setFtValid v s).tOut = s.tOut := rfl
@[simp] theorem setFtValid_pOut (v : Bool) (s : State) : (setFtValid v s).pOut = s.pOut := rfl
@[simp] theorem setFtValid_hOut (v : Bool) (s : State) : (setFtValid v s).hOut = s.hOut := rfl
@[simp] theorem setFtValid_idLast (v : Bool) (s : State) : (setFtValid v s).idLast = s.idLast := rfl
@[simp] theorem setFtValid_bus (v : Bool) (s : State) : (setFtValid v s).bus = s.bus := rfl
@[simp] theorem setFtValid_draws (v : Bool) (s : State) : (setFtValid v s).draws = s.draws := rfl
@[simp] theorem setFtValid_host (v : Bool) (s : State) : (setFtValid v s).host = s.host := rfl

/-! ### setDegen -/

@[simp] theorem setDegen_params (v : Bool) (s : State) : (setDegen v s).params = s.params := rfl
@[simp] theorem setDegen_status (v : Bool) (s : State) : (setDegen v s).status = { s.status with degen := v } := rfl
@[simp] theorem setDegen_cal (v : Bool) (s : State) : (setDegen v s).cal = s.cal := rfl
@[simp] theorem setDegen_raw (v : Bool) (s : State) : (setDegen v s).raw = s.raw := rfl
@[simp] theorem setDegen_tFine (v : Bool) (s : State) : (setDegen v s).tFine = s.tFine := rfl
@[simp] theorem setDegen_tOut (v : Bool) (s : State) : (setDegen v s).tOut = s.tOut := rfl
@[simp] theorem setDegen_pOut (v : Bool) (s : State) : (setDegen v s).pOut = s.pOut := rfl
@[simp] theorem setDegen_hOut (v : Bool) (s : State) : (setDegen v s).hOut = s.hOut := rfl
@[simp] theorem setDegen_idLast (v : Bool) (s : State) : (setDegen v s).idLast = s.idLast := rfl
@[simp] theorem setDegen_bus (v : Bool) (s : State) : (setDegen v s).bus = s.bus := rfl
@[simp] theorem setDegen_draws (v : Bool) (s : State) : (setDegen v s).draws = s.draws := rfl
@[simp] theorem setDegen_host (v : Bool) (s : State) : (setDegen v s).host = s.host := rfl

/-! ### joinOvf -/

@[simp] theorem joinOvf_params (v : Bool) (s : State) : (joinOvf v s).params = s.params := rfl
@[simp] theorem joinOvf_status (v : Bool) (s : State) : (joinOvf v s).status = { s.status with ovf := s.status.ovf || v } := rfl
@[simp] theorem joinOvf_cal (v : Bool) (s : State) : (joinOvf v s).cal = s.cal := rfl
@[simp] theorem joinOvf_raw (v : Bool) (s : State) : (joinOvf v s).raw = s.raw := rfl
@[simp] theorem joinOvf_tFine (v : Bool) (s : State) : (joinOvf v s).tFine = s.tFine := rfl
@[simp] theorem joinOvf_tOut (v : Bool) (s : State) : (joinOvf v s).tOut = s.tOut := rfl
@[simp] theorem joinOvf_pOut (v : Bool) (s : State) : (joinOvf v s).pOut = s.pOut := rfl
@[simp] theorem joinOvf_hOut (v : Bool) (s : State) : (joinOvf v s).hOut = s.hOut := rfl
@[simp] theorem joinOvf_idLast (v : Bool) (s : State) : (joinOvf v s).idLast = s.idLast := rfl
@[simp] theorem joinOvf_bus (v : Bool) (s : State) : (joinOvf v s).bus = s.bus := rfl
@[simp] theorem joinOvf_draws (v : Bool) (s : State) : (joinOvf v s).draws = s.draws := rfl
@[simp] theorem joinOvf_host (v : Bool) (s : State) : (joinOvf v s).host = s.host := rfl

/-! ### raise -/

@[simp] theorem raise_params (e : ErrCode) (s : State) : (raise e s).params = s.params := rfl
@[simp] theorem raise_status (e : ErrCode) (s : State) : (raise e s).status = { s.status with err := e } := rfl
@[simp] theorem raise_cal (e : ErrCode) (s : State) : (raise e s).cal = s.cal := rfl
@[simp] theorem raise_raw (e : ErrCode) (s : State) : (raise e s).raw = s.raw := rfl
@[simp] theorem raise_tFine (e : ErrCode) (s : State) : (raise e s).tFine = s.tFine := rfl
@[simp] theorem raise_tOut (e : ErrCode) (s : State) : (raise e s).tOut = s.tOut := rfl
@[simp] theorem raise_pOut (e : ErrCode) (s : State) : (raise e s).pOut = s.pOut := rfl
@[simp] theorem raise_hOut (e : ErrCode) (s : State) : (raise e s).hOut = s.hOut := rfl
@[simp] theorem raise_idLast (e : ErrCode) (s : State) : (raise e s).idLast = s.idLast := rfl
@[simp] theorem raise_bus (e : ErrCode) (s : State) : (raise e s).bus = s.bus := rfl
@[simp] theorem raise_draws (e : ErrCode) (s : State) : (raise e s).draws = s.draws := rfl
@[simp] theorem raise_host (e : ErrCode) (s : State) : (raise e s).host = s.host := rfl

/-! ### noteRequest -/

@[simp] theorem noteRequest_params (reg n : Nat) (s : State) : (noteRequest reg n s).params = s.params := rfl
@[simp] theorem noteRequest_status (reg n : Nat) (s : State) : (noteRequest reg n s).status = s.status := rfl
@[simp] theorem noteRequest_cal (reg n : Nat) (s : State) : (noteRequest reg n s).cal = s.cal := rfl
@[simp] theorem noteRequest_raw (reg n : Nat) (s : State) : (noteRequest reg n s).raw = s.raw := rfl
@[simp] theorem noteRequest_tFine (reg n : Nat) (s : State) : (noteRequest reg n s).tFine = s.tFine := rfl
@[simp] theorem noteRequest_tOut (reg n : Nat) (s : State) : (noteRequest reg n s).tOut = s.tOut := rfl
@[simp] theorem noteRequest_pOut (reg n : Nat) (s : State) : (noteRequest reg n s).pOut = s.pOut := rfl
@[simp] theorem noteRequest_hOut (reg n : Nat) (s : State) : (noteRequest reg n s).hOut = s.hOut := rfl
@[simp] theorem noteRequest_idLast (reg n : Nat) (s : State) : (noteRequest reg n s).idLast = s.idLast := rfl
@[simp] theorem noteRequest_bus (reg n : Nat) (s : State) :
    (noteRequest reg n s).bus =
    { replies := s.bus.replies.tail, requests := s.bus.requests ++ [{ dev := s.params.devAddr, reg := reg, len := n }] } := rfl
@[simp] theorem noteRequest_draws (reg n : Nat) (s : State) :
    (noteRequest reg n s).draws = if s.bus.replies = [] then s.draws + 1 else s.draws := rfl
@[simp] theorem noteRequest_host (reg n : Nat) (s : State) : (noteRequest reg n s).host = s.host := rfl

/-! ### noteDraw -/

@[simp] theorem noteDraw_params (free : Bool) (s : State) : (noteDraw free s).params = s.params := rfl
@[simp] theorem noteDraw_status (free : Bool) (s : State) : (noteDraw free s).status = s.status := rfl
@[simp] theorem noteDraw_cal (free : Bool) (s : State) : (noteDraw free s).cal = s.cal := rfl
@[simp] theorem noteDraw_raw (free : Bool) (s : State) : (noteDraw free s).raw = s.raw := rfl
@[simp] theorem noteDraw_tFine (free : Bool) (s : State) : (noteDraw free s).tFine = s.tFine := rfl
@[simp] theorem noteDraw_tOut (free : Bool) (s : State) : (noteDraw free s).tOut = s.tOut := rfl
@[simp] theorem noteDraw_pOut (free : Bool) (s : State) : (noteDraw free s).pOut = s.pOut := rfl
@[simp] theorem noteDraw_hOut (free : Bool) (s : State) : (noteDraw free s).hOut = s.hOut := rfl
@[simp] theorem noteDraw_idLast (free : Bool) (s : State) : (noteDraw free s).idLast = s.idLast := rfl
@[simp] theorem noteDraw_bus (free : Bool) (s : State) : (noteDraw free s).bus = s.bus := rfl
@[simp] theorem noteDraw_draws (free : Bool) (s : State) : (noteDraw free s).draws = if free then s.draws + 1 else s.draws := rfl
@[simp] theorem noteDraw_host (free : Bool) (s : State) : (noteDraw free s).host = s.host := rfl

/-! ### writeRaw -/

@[simp] theorem writeRaw_params (r : RawSample) (s : State) : (writeRaw r s).params = s.params := rfl
@[simp] theorem writeRaw_status (r : RawSample) (s : State) : (writeRaw r s).status = { s.status with rawValid := true } := rfl
@[simp] theorem writeRaw_cal (r : RawSample) (s : State) : (writeRaw r s).cal = s.cal := rfl
@[simp] theorem writeRaw_raw (r : RawSample) (s : State) : (writeRaw r s).raw = some r := rfl
@[simp] theorem writeRaw_tFine (r : RawSample) (s : State) : (writeRaw r s).tFine = s.tFine := rfl
@[simp] theorem writeRaw_tOut (r : RawSample) (s : State) : (writeRaw r s).tOut = s.tOut := rfl
@[simp] theorem writeRaw_pOut (r : RawSample) (s : State) : (writeRaw r s).pOut = s.pOut := rfl
@[simp] theorem writeRaw_hOut (r : RawSample) (s : State) : (writeRaw r s).hOut = s.hOut := rfl
@[simp] theorem writeRaw_idLast (r : RawSample) (s : State) : (writeRaw r s).idLast = s.idLast := rfl
@[simp] theorem writeRaw_bus (r : RawSample) (s : State) : (writeRaw r s).bus = s.bus := rfl
@[simp] theorem writeRaw_draws (r : RawSample) (s : State) : (writeRaw r s).draws = s.draws := rfl
@[simp] theorem writeRaw_host (r : RawSample) (s : State) : (writeRaw r s).host = s.host := rfl

/-! ### calibrationFailed and rawFailed -/

@[simp] theorem calibrationFailed_params (s : State) : (calibrationFailed s).params = s.params := rfl
@[simp] theorem calibrationFailed_status (s : State) :
    (calibrationFailed s).status = { s.status with err := .transport, calValid := false } := rfl
@[simp] theorem calibrationFailed_cal (s : State) : (calibrationFailed s).cal = s.cal := rfl
@[simp] theorem calibrationFailed_raw (s : State) : (calibrationFailed s).raw = s.raw := rfl
@[simp] theorem calibrationFailed_tFine (s : State) : (calibrationFailed s).tFine = s.tFine := rfl
@[simp] theorem calibrationFailed_tOut (s : State) : (calibrationFailed s).tOut = s.tOut := rfl
@[simp] theorem calibrationFailed_pOut (s : State) : (calibrationFailed s).pOut = s.pOut := rfl
@[simp] theorem calibrationFailed_hOut (s : State) : (calibrationFailed s).hOut = s.hOut := rfl
@[simp] theorem calibrationFailed_idLast (s : State) : (calibrationFailed s).idLast = s.idLast := rfl
@[simp] theorem calibrationFailed_bus (s : State) : (calibrationFailed s).bus = s.bus := rfl
@[simp] theorem calibrationFailed_draws (s : State) : (calibrationFailed s).draws = s.draws := rfl
@[simp] theorem calibrationFailed_host (s : State) : (calibrationFailed s).host = s.host := rfl
@[simp] theorem rawFailed_params (s : State) : (rawFailed s).params = s.params := rfl
@[simp] theorem rawFailed_status (s : State) :
    (rawFailed s).status = { s.status with err := .transport, rawValid := false } := rfl
@[simp] theorem rawFailed_cal (s : State) : (rawFailed s).cal = s.cal := rfl
@[simp] theorem rawFailed_raw (s : State) : (rawFailed s).raw = s.raw := rfl
@[simp] theorem rawFailed_tFine (s : State) : (rawFailed s).tFine = s.tFine := rfl
@[simp] theorem rawFailed_tOut (s : State) : (rawFailed s).tOut = s.tOut := rfl
@[simp] theorem rawFailed_pOut (s : State) : (rawFailed s).pOut = s.pOut := rfl
@[simp] theorem rawFailed_hOut (s : State) : (rawFailed s).hOut = s.hOut := rfl
@[simp] theorem rawFailed_idLast (s : State) : (rawFailed s).idLast = s.idLast := rfl
@[simp] theorem rawFailed_bus (s : State) : (rawFailed s).bus = s.bus := rfl
@[simp] theorem rawFailed_draws (s : State) : (rawFailed s).draws = s.draws := rfl
@[simp] theorem rawFailed_host (s : State) : (rawFailed s).host = s.host := rfl

/-! ### setPending and setReceived -/

@[simp] theorem setPending_params (rest : List HostAction) (s : State) : (setPending rest s).params = s.params := rfl
@[simp] theorem setPending_status (rest : List HostAction) (s : State) : (setPending rest s).status = s.status := rfl
@[simp] theorem setPending_cal (rest : List HostAction) (s : State) : (setPending rest s).cal = s.cal := rfl
@[simp] theorem setPending_raw (rest : List HostAction) (s : State) : (setPending rest s).raw = s.raw := rfl
@[simp] theorem setPending_tFine (rest : List HostAction) (s : State) : (setPending rest s).tFine = s.tFine := rfl
@[simp] theorem setPending_tOut (rest : List HostAction) (s : State) : (setPending rest s).tOut = s.tOut := rfl
@[simp] theorem setPending_pOut (rest : List HostAction) (s : State) : (setPending rest s).pOut = s.pOut := rfl
@[simp] theorem setPending_hOut (rest : List HostAction) (s : State) : (setPending rest s).hOut = s.hOut := rfl
@[simp] theorem setPending_idLast (rest : List HostAction) (s : State) : (setPending rest s).idLast = s.idLast := rfl
@[simp] theorem setPending_bus (rest : List HostAction) (s : State) : (setPending rest s).bus = s.bus := rfl
@[simp] theorem setPending_draws (rest : List HostAction) (s : State) : (setPending rest s).draws = s.draws := rfl
@[simp] theorem setPending_host (rest : List HostAction) (s : State) : (setPending rest s).host = { s.host with pending := rest } := rfl
@[simp] theorem setReceived_params (v : HostValue) (s : State) : (setReceived v s).params = s.params := rfl
@[simp] theorem setReceived_status (v : HostValue) (s : State) : (setReceived v s).status = s.status := rfl
@[simp] theorem setReceived_cal (v : HostValue) (s : State) : (setReceived v s).cal = s.cal := rfl
@[simp] theorem setReceived_raw (v : HostValue) (s : State) : (setReceived v s).raw = s.raw := rfl
@[simp] theorem setReceived_tFine (v : HostValue) (s : State) : (setReceived v s).tFine = s.tFine := rfl
@[simp] theorem setReceived_tOut (v : HostValue) (s : State) : (setReceived v s).tOut = s.tOut := rfl
@[simp] theorem setReceived_pOut (v : HostValue) (s : State) : (setReceived v s).pOut = s.pOut := rfl
@[simp] theorem setReceived_hOut (v : HostValue) (s : State) : (setReceived v s).hOut = s.hOut := rfl
@[simp] theorem setReceived_idLast (v : HostValue) (s : State) : (setReceived v s).idLast = s.idLast := rfl
@[simp] theorem setReceived_bus (v : HostValue) (s : State) : (setReceived v s).bus = s.bus := rfl
@[simp] theorem setReceived_draws (v : HostValue) (s : State) : (setReceived v s).draws = s.draws := rfl
@[simp] theorem setReceived_host (v : HostValue) (s : State) : (setReceived v s).host = { s.host with received := some v } := rfl

/-! ### the writes of the three compensation commands

These lemmas are proved for any result `r`, and not by `rfl`, so that a proof that uses them never asks the kernel to
evaluate `compT`, `compP` or `compH`. A proof about a concrete result starts best with
`generalize temperatureOf c r = x` (and the same for the other two). -/

@[simp] theorem writeTemperature_params (r : TemperatureResult) (s : State) : (writeTemperature r s).params = s.params := by cases r; rfl
@[simp] theorem writeTemperature_status (r : TemperatureResult) (s : State) :
    (writeTemperature r s).status = { s.status with ovf := s.status.ovf || r.ovf, ftValid := true } := by cases r; rfl
@[simp] theorem writeTemperature_cal (r : TemperatureResult) (s : State) : (writeTemperature r s).cal = s.cal := by cases r; rfl
@[simp] theorem writeTemperature_raw (r : TemperatureResult) (s : State) : (writeTemperature r s).raw = s.raw := by cases r; rfl
@[simp] theorem writeTemperature_tFine (r : TemperatureResult) (s : State) :
    (writeTemperature r s).tFine = some r.fine := by cases r; rfl
@[simp] theorem writeTemperature_tOut (r : TemperatureResult) (s : State) :
    (writeTemperature r s).tOut = some (outputValue (drawsResult r.ovf s) Config.anyTemperature r.tout s) := by cases r; rfl
@[simp] theorem writeTemperature_pOut (r : TemperatureResult) (s : State) : (writeTemperature r s).pOut = s.pOut := by cases r; rfl
@[simp] theorem writeTemperature_hOut (r : TemperatureResult) (s : State) : (writeTemperature r s).hOut = s.hOut := by cases r; rfl
@[simp] theorem writeTemperature_idLast (r : TemperatureResult) (s : State) : (writeTemperature r s).idLast = s.idLast := by cases r; rfl
@[simp] theorem writeTemperature_bus (r : TemperatureResult) (s : State) : (writeTemperature r s).bus = s.bus := by cases r; rfl
@[simp] theorem writeTemperature_draws (r : TemperatureResult) (s : State) :
    (writeTemperature r s).draws = if drawsResult r.ovf s then s.draws + 1 else s.draws := by cases r; rfl
@[simp] theorem writeTemperature_host (r : TemperatureResult) (s : State) : (writeTemperature r s).host = s.host := by cases r; rfl
@[simp] theorem writePressure_params (r : PressureResult) (s : State) : (writePressure r s).params = s.params := by cases r; rfl
@[simp] theorem writePressure_status (r : PressureResult) (s : State) :
    (writePressure r s).status = { s.status with ovf := s.status.ovf || r.ovf, degen := r.degen } := by cases r; rfl
@[simp] theorem writePressure_cal (r : PressureResult) (s : State) : (writePressure r s).cal = s.cal := by cases r; rfl
@[simp] theorem writePressure_raw (r : PressureResult) (s : State) : (writePressure r s).raw = s.raw := by cases r; rfl
@[simp] theorem writePressure_tFine (r : PressureResult) (s : State) : (writePressure r s).tFine = s.tFine := by cases r; rfl
@[simp] theorem writePressure_tOut (r : PressureResult) (s : State) : (writePressure r s).tOut = s.tOut := by cases r; rfl
@[simp] theorem writePressure_pOut (r : PressureResult) (s : State) :
    (writePressure r s).pOut = some (outputValue (drawsResult r.ovf s) Config.anyPressure r.p s) := by cases r; rfl
@[simp] theorem writePressure_hOut (r : PressureResult) (s : State) : (writePressure r s).hOut = s.hOut := by cases r; rfl
@[simp] theorem writePressure_idLast (r : PressureResult) (s : State) : (writePressure r s).idLast = s.idLast := by cases r; rfl
@[simp] theorem writePressure_bus (r : PressureResult) (s : State) : (writePressure r s).bus = s.bus := by cases r; rfl
@[simp] theorem writePressure_draws (r : PressureResult) (s : State) :
    (writePressure r s).draws = if drawsResult r.ovf s then s.draws + 1 else s.draws := by cases r; rfl
@[simp] theorem writePressure_host (r : PressureResult) (s : State) : (writePressure r s).host = s.host := by cases r; rfl
@[simp] theorem writeHumidity_params (r : HumidityResult) (s : State) : (writeHumidity r s).params = s.params := by cases r; rfl
@[simp] theorem writeHumidity_status (r : HumidityResult) (s : State) :
    (writeHumidity r s).status = { s.status with ovf := s.status.ovf || r.ovf } := by cases r; rfl
@[simp] theorem writeHumidity_cal (r : HumidityResult) (s : State) : (writeHumidity r s).cal = s.cal := by cases r; rfl
@[simp] theorem writeHumidity_raw (r : HumidityResult) (s : State) : (writeHumidity r s).raw = s.raw := by cases r; rfl
@[simp] theorem writeHumidity_tFine (r : HumidityResult) (s : State) : (writeHumidity r s).tFine = s.tFine := by cases r; rfl
@[simp] theorem writeHumidity_tOut (r : HumidityResult) (s : State) : (writeHumidity r s).tOut = s.tOut := by cases r; rfl
@[simp] theorem writeHumidity_pOut (r : HumidityResult) (s : State) : (writeHumidity r s).pOut = s.pOut := by cases r; rfl
@[simp] theorem writeHumidity_hOut (r : HumidityResult) (s : State) :
    (writeHumidity r s).hOut = some (outputValue (drawsResult r.ovf s) humidityDraw r.h s) := by cases r; rfl
@[simp] theorem writeHumidity_idLast (r : HumidityResult) (s : State) : (writeHumidity r s).idLast = s.idLast := by cases r; rfl
@[simp] theorem writeHumidity_bus (r : HumidityResult) (s : State) : (writeHumidity r s).bus = s.bus := by cases r; rfl
@[simp] theorem writeHumidity_draws (r : HumidityResult) (s : State) :
    (writeHumidity r s).draws = if drawsResult r.ovf s then s.draws + 1 else s.draws := by cases r; rfl
@[simp] theorem writeHumidity_host (r : HumidityResult) (s : State) : (writeHumidity r s).host = s.host := by cases r; rfl

/-! ### the compensation part of `MEAS`: the three writes one after another -/

/-- The three writes of `MEAS`, for any three results. -/
def writeAll (x : TemperatureResult) (y : PressureResult) (z : HumidityResult) (s : State) : State :=
  writeHumidity z (writePressure y (writeTemperature x s))

/-- `compensateAll` as the writes of its three results, the last two from the `fine` of the first (43_measure.md R100). -/
theorem compensateAll_eq_writeAll (c : Calibration) (r : RawSample) (s : State) :
    ∃ x y z, x = temperatureOf c r ∧ y = pressureOf c r x.fine ∧ z = humidityOf c r x.fine ∧
      compensateAll c r s = writeAll x y z s :=
  ⟨_, _, _, rfl, rfl, rfl, rfl⟩

@[simp] theorem drawsResult_writeTemperature (ovf : Bool) (x : TemperatureResult) (s : State) :
    drawsResult ovf (writeTemperature x s) = drawsResult ovf s := by cases x; rfl

@[simp] theorem drawsResult_writePressure (ovf : Bool) (x : PressureResult) (s : State) :
    drawsResult ovf (writePressure x s) = drawsResult ovf s := by cases x; rfl

@[simp] theorem writeAll_params (x : TemperatureResult) (y : PressureResult) (z : HumidityResult) (s : State) :
    (writeAll x y z s).params = s.params := by
  cases x; cases y; cases z; rfl
@[simp] theorem writeAll_status (x : TemperatureResult) (y : PressureResult) (z : HumidityResult) (s : State) :
    (writeAll x y z s).status = { s.status with ovf := s.status.ovf || x.ovf || y.ovf || z.ovf, degen := y.degen, ftValid := true } := by
  cases x; cases y; cases z; rfl
@[simp] theorem writeAll_cal (x : TemperatureResult) (y : PressureResult) (z : HumidityResult) (s : State) :
    (writeAll x y z s).cal = s.cal := by
  cases x; cases y; cases z; rfl
@[simp] theorem writeAll_raw (x : TemperatureResult) (y : PressureResult) (z : HumidityResult) (s : State) :
    (writeAll x y z s).raw = s.raw := by
  cases x; cases y; cases z; rfl
@[simp] theorem writeAll_tFine (x : TemperatureResult) (y : PressureResult) (z : HumidityResult) (s : State) :
    (writeAll x y z s).tFine = some x.fine := by
  cases x; cases y; cases z; rfl
@[simp] theorem writeAll_tOut (x : TemperatureResult) (y : PressureResult) (z : HumidityResult) (s : State) :
    (writeAll x y z s).tOut = some (outputValue (drawsResult x.ovf s) Config.anyTemperature x.tout s) := by
  cases x; cases y; cases z; rfl
@[simp] theorem writeAll_pOut (x : TemperatureResult) (y : PressureResult) (z : HumidityResult) (s : State) :
    (writeAll x y z s).pOut = some (outputValue (drawsResult y.ovf s) Config.anyPressure y.p (writeTemperature x s)) := by
  cases x; cases y; cases z; rfl
@[simp] theorem writeAll_hOut (x : TemperatureResult) (y : PressureResult) (z : HumidityResult) (s : State) :
    (writeAll x y z s).hOut = some (outputValue (drawsResult z.ovf s) humidityDraw z.h (writePressure y (writeTemperature x s))) := by
  cases x; cases y; cases z; rfl
@[simp] theorem writeAll_idLast (x : TemperatureResult) (y : PressureResult) (z : HumidityResult) (s : State) :
    (writeAll x y z s).idLast = s.idLast := by
  cases x; cases y; cases z; rfl
@[simp] theorem writeAll_bus (x : TemperatureResult) (y : PressureResult) (z : HumidityResult) (s : State) :
    (writeAll x y z s).bus = s.bus := by
  cases x; cases y; cases z; rfl
@[simp] theorem writeAll_host (x : TemperatureResult) (y : PressureResult) (z : HumidityResult) (s : State) :
    (writeAll x y z s).host = s.host := by
  cases x; cases y; cases z; rfl

end Sys2Proof.Machine
end

