-- ==== Sys2Proof/Laws/Ops.lean ====
section
/-! SUPPORT. What the shared operations do: the transport's answers (20_memory.md R42, R43), the checks
(42_compensation.md R88), and, for each command, every way it can end, said once. -/

namespace Sys2Proof.Machine

open Sys2Proof.Safety

/-! ### One burst -/

theorem takeBurst_eq_none_iff (n : Nat) (bs : List Byte) : takeBurst n bs = none ↔ bs.length < n := by
  unfold takeBurst
  split <;> simp <;> omega

theorem takeBurst_toList {n : Nat} {bs : List Byte} {v : Vector Byte n} (h : takeBurst n bs = some v) :
    v.toList = bs.take n := by
  unfold takeBurst at h
  split at h
  · simp only [Option.some.injEq] at h
    subst h
    simp [Vector.toList]
  · cases h

theorem takeBurst_of_le {n : Nat} {bs : List Byte} (h : n ≤ bs.length) : ∃ v, takeBurst n bs = some v := by
  rw [takeBurst, dif_pos h]
  exact ⟨_, rfl⟩

@[simp] theorem takeBurst_eight (d0 d1 d2 d3 d4 d5 d6 d7 : Byte) (more : List Byte) :
    takeBurst 8 (d0 :: d1 :: d2 :: d3 :: d4 :: d5 :: d6 :: d7 :: more) = some #v[d0, d1, d2, d3, d4, d5, d6, d7] := by
  simp [takeBurst]

@[simp] theorem takeBurst_three (d0 d1 d2 : Byte) (more : List Byte) :
    takeBurst 3 (d0 :: d1 :: d2 :: more) = some #v[d0, d1, d2] := by
  simp [takeBurst]

@[simp] theorem takeBurst_two (d0 d1 : Byte) (more : List Byte) : takeBurst 2 (d0 :: d1 :: more) = some #v[d0, d1] := by
  simp [takeBurst]

@[simp] theorem takeBurst_one (d0 : Byte) (more : List Byte) : takeBurst 1 (d0 :: more) = some #v[d0] := by
  simp [takeBurst]

theorem readBurst_eq (reg n : Nat) (s : State) :
    readBurst reg n s = (takeBurst n (nextReply s), noteRequest reg n s) := rfl

/-! ### The coming answers -/

theorem coming_congr {s t : State} (bus : s.bus = t.bus) (draws : s.draws = t.draws) (j : Nat) :
    coming s j = coming t j := by
  simp only [coming, bus, draws]

/-- The start of a command leaves the coming answers alone. -/
@[simp] theorem coming_started (v : Bool) (s : State) (j : Nat) :
    coming (setFtValid v (beginCommand s)) j = coming s j := rfl

theorem nextReply_eq_coming (s : State) : nextReply s = coming s 0 := by
  unfold nextReply coming
  cases h : s.bus.replies <;> simp

theorem coming_noteRequest (reg n : Nat) (s : State) (j : Nat) : coming (noteRequest reg n s) j = coming s (j + 1) := by
  unfold coming
  rcases h : s.bus.replies with _ | ⟨a, l⟩
  · simp [h]; congr 1; omega
  · simp [h]

theorem nextReply_noteRequest (reg n : Nat) (s : State) : nextReply (noteRequest reg n s) = coming s 1 := by
  rw [nextReply_eq_coming, coming_noteRequest]

theorem nextReply_noteRequest_noteRequest (reg n reg' n' : Nat) (s : State) :
    nextReply (noteRequest reg' n' (noteRequest reg n s)) = coming s 2 := by
  rw [nextReply_eq_coming, coming_noteRequest, coming_noteRequest]

theorem noteRequest_eq_afterBursts (reg n : Nat) (s : State) :
    noteRequest reg n s = afterBursts [⟨s.params.devAddr, reg, n⟩] s := by
  rcases s with ⟨p, st, c, r, f, t, q, h, i, ⟨replies, requests⟩, d, ho⟩
  cases replies <;> simp [noteRequest, afterBursts]

theorem noteRequest_afterBursts (reg n : Nat) (bursts : List BurstRequest) (s : State) :
    noteRequest reg n (afterBursts bursts s) = afterBursts (bursts ++ [⟨s.params.devAddr, reg, n⟩]) s := by
  simp only [noteRequest, afterBursts, List.tail_drop, List.append_assoc, List.length_append, List.length_singleton,
    State.mk.injEq, List.drop_eq_nil_iff, true_and, and_true]
  split <;> omega

/-- Two bursts one after another. -/
theorem noteRequest_two (r1 n1 r2 n2 : Nat) (s : State) :
    noteRequest r2 n2 (noteRequest r1 n1 s) =
      afterBursts [⟨s.params.devAddr, r1, n1⟩, ⟨s.params.devAddr, r2, n2⟩] s := by
  rw [noteRequest_eq_afterBursts r1, noteRequest_afterBursts]; rfl

/-- Three bursts one after another. -/
theorem noteRequest_three (r1 n1 r2 n2 r3 n3 : Nat) (s : State) :
    noteRequest r3 n3 (noteRequest r2 n2 (noteRequest r1 n1 s)) =
      afterBursts [⟨s.params.devAddr, r1, n1⟩, ⟨s.params.devAddr, r2, n2⟩, ⟨s.params.devAddr, r3, n3⟩] s := by
  rw [noteRequest_two r1, noteRequest_afterBursts]; rfl

/-! ### The checks -/

theorem gateRaw_eq_ok_iff (st : Status) : gateRaw st = .ok ↔ st.idst ≠ .mismatch := by
  unfold gateRaw; split <;> simp_all

theorem gateReady_eq_ok_iff (st : Status) : gateReady st = .ok ↔ st.idst ≠ .mismatch ∧ st.calValid = true := by
  rcases st with ⟨_ | _ | _, _ | _, r, f, d, o, e⟩ <;> simp [gateReady]

theorem gateTemperature_eq_ok_iff (st : Status) :
    gateTemperature st = .ok ↔ st.idst ≠ .mismatch ∧ st.calValid = true ∧ st.rawValid = true := by
  rcases st with ⟨_ | _ | _, _ | _, _ | _, f, d, o, e⟩ <;> simp [gateTemperature]

theorem gateFine_eq_ok_iff (st : Status) :
    gateFine st = .ok ↔ st.idst ≠ .mismatch ∧ st.calValid = true ∧ st.rawValid = true ∧ st.ftValid = true := by
  rcases st with ⟨_ | _ | _, _ | _, _ | _, _ | _, d, o, e⟩ <;> simp [gateFine]

/-! The checks read the persistent fields alone, so the clears of 10_state.md R34 do not change them. -/

@[simp] theorem gateRaw_perCommand (st : Status) (e : ErrCode) (o d : Bool) :
    gateRaw { st with err := e, ovf := o, degen := d } = gateRaw st := rfl

@[simp] theorem gateReady_perCommand (st : Status) (e : ErrCode) (o d : Bool) :
    gateReady { st with err := e, ovf := o, degen := d } = gateReady st := rfl

@[simp] theorem gateTemperature_perCommand (st : Status) (e : ErrCode) (o d : Bool) :
    gateTemperature { st with err := e, ovf := o, degen := d } = gateTemperature st := rfl

@[simp] theorem gateFine_perCommand (st : Status) (e : ErrCode) (o d : Bool) :
    gateFine { st with err := e, ovf := o, degen := d } = gateFine st := rfl

/-! ### Every way a command can end -/

/-- `IDCHK`: a short answer, the expected byte, or another byte. -/
theorem execIdchk_cases (s : State) :
    (takeBurst 1 (coming s 0) = none ∧
      execIdchk s = .next (raise .transport (noteRequest s.params.regId.toNat 1 (beginCommand s)))) ∨
    (∃ v : Vector Byte 1, takeBurst 1 (coming s 0) = some v ∧ v[0] = s.params.idExpected ∧
      execIdchk s = .next (setIdst .ok
        { noteRequest s.params.regId.toNat 1 (beginCommand s) with idLast := some v[0] })) ∨
    (∃ v : Vector Byte 1, takeBurst 1 (coming s 0) = some v ∧ v[0] ≠ s.params.idExpected ∧
      execIdchk s = .next (raise .nodev (setIdst .mismatch
        { noteRequest s.params.regId.toNat 1 (beginCommand s) with idLast := some v[0] }))) := by
  have hc : nextReply (beginCommand s) = coming s 0 := nextReply_eq_coming _
  simp only [execIdchk, readBurst_eq, hc]
  rcases h : takeBurst 1 (coming s 0) with _ | v
  · left; simp [checkIdentity]
  · right
    by_cases hv : v[0] = s.params.idExpected
    · left; exact ⟨v, rfl, hv, by simp [checkIdentity, hv]⟩
    · right; exact ⟨v, rfl, hv, by simp [checkIdentity, hv]⟩

/-- `LDCAL`: a short answer to the first, second or third burst, or the whole Store. -/
theorem execLdcal_cases (s : State) :
    let s0 := setFtValid false (beginCommand s)
    let s1 := noteRequest s.params.regCalTp.toNat 24 s0
    let s2 := noteRequest s.params.regCalH1.toNat 1 s1
    let s3 := noteRequest s.params.regCalH.toNat 7 s2
    (takeBurst 24 (coming s 0) = none ∧ execLdcal s = .next (calibrationFailed s1)) ∨
    (∃ tp, takeBurst 24 (coming s 0) = some tp ∧ takeBurst 1 (coming s 1) = none ∧
      execLdcal s = .next (calibrationFailed s2)) ∨
    (∃ tp h1, takeBurst 24 (coming s 0) = some tp ∧ takeBurst 1 (coming s 1) = some h1 ∧
      takeBurst 7 (coming s 2) = none ∧ execLdcal s = .next (calibrationFailed s3)) ∨
    (∃ tp h1 h, takeBurst 24 (coming s 0) = some tp ∧ takeBurst 1 (coming s 1) = some h1 ∧
      takeBurst 7 (coming s 2) = some h ∧
      execLdcal s = .next (setCalValid true { s3 with cal := some (decodeCal s.params.h45Signed tp h1 h) })) := by
  have hc : ∀ j, coming (setFtValid false (beginCommand s)) j = coming s j := fun j => coming_congr rfl rfl j
  simp only [execLdcal, loadCalibration, readBurst_eq, nextReply_eq_coming, hc]
  rcases h0 : takeBurst 24 (coming s 0) with _ | tp
  · left; simp
  · right
    simp only [coming_noteRequest, hc, Nat.zero_add]
    rcases h1 : takeBurst 1 (coming s 1) with _ | v1
    · left; exact ⟨tp, rfl, rfl, rfl⟩
    · right
      rcases h2 : takeBurst 7 (coming s 2) with _ | v2
      · left; exact ⟨tp, v1, rfl, rfl, rfl, by simp only [coming_noteRequest, hc, Nat.zero_add, Nat.reduceAdd, h2]; rfl⟩
      · right; exact ⟨tp, v1, v2, rfl, rfl, rfl, by simp only [coming_noteRequest, hc, Nat.zero_add, Nat.reduceAdd, h2]; rfl⟩

/-- The 8-byte raw read: a short answer, or the packed sample. -/
theorem sampleSingle_cases (s : State) :
    let s1 := noteRequest s.params.regData.toNat 8 s
    (takeBurst 8 (coming s 0) = none ∧ sampleSingle s = (none, s1)) ∨
    (∃ d, takeBurst 8 (coming s 0) = some d ∧ sampleSingle s = (some (packSingle d), s1)) := by
  simp only [sampleSingle, readBurst_eq, nextReply_eq_coming]
  rcases h : takeBurst 8 (coming s 0) with _ | d
  · left; simp
  · right; exact ⟨d, rfl, rfl⟩

/-- The split raw read: a short answer to the first, second or third burst, or the packed sample. -/
theorem sampleSplit_cases (s : State) :
    let s1 := noteRequest s.params.regData.toNat 3 s
    let s2 := noteRequest (s.params.regData.toNat + 3) 3 s1
    let s3 := noteRequest (s.params.regData.toNat + 6) 2 s2
    (takeBurst 3 (coming s 0) = none ∧ sampleSplit s = (none, s1)) ∨
    (∃ dp, takeBurst 3 (coming s 0) = some dp ∧ takeBurst 3 (coming s 1) = none ∧ sampleSplit s = (none, s2)) ∨
    (∃ dp dt, takeBurst 3 (coming s 0) = some dp ∧ takeBurst 3 (coming s 1) = some dt ∧
      takeBurst 2 (coming s 2) = none ∧ sampleSplit s = (none, s3)) ∨
    (∃ dp dt dh, takeBurst 3 (coming s 0) = some dp ∧ takeBurst 3 (coming s 1) = some dt ∧
      takeBurst 2 (coming s 2) = some dh ∧ sampleSplit s = (some (packSplit dp dt dh), s3)) := by
  simp only [sampleSplit, readBurst_eq, nextReply_eq_coming]
  rcases h0 : takeBurst 3 (coming s 0) with _ | dp
  · left; simp
  · right
    simp only [coming_noteRequest, Nat.zero_add]
    rcases h1 : takeBurst 3 (coming s 1) with _ | dt
    · left; exact ⟨dp, rfl, rfl, rfl⟩
    · right
      rcases h2 : takeBurst 2 (coming s 2) with _ | dh
      · left; exact ⟨dp, dt, rfl, rfl, rfl, by simp only [coming_noteRequest, Nat.zero_add, Nat.reduceAdd, h2]; rfl⟩
      · right; exact ⟨dp, dt, dh, rfl, rfl, rfl, by simp only [coming_noteRequest, Nat.zero_add, Nat.reduceAdd, h2]; rfl⟩

/-- What a raw read leaves alone, whichever form it has and however it ends: everything but the transport. -/
theorem sampleSingle_state (s : State) : (sampleSingle s).2 = noteRequest s.params.regData.toNat 8 s := by
  rcases sampleSingle_cases s with ⟨-, h⟩ | ⟨d, -, h⟩ <;> simp [h]

/-- The raw reads touch only the transport: the state after one has the old `params`, `status`, registers and Host. -/
def OnlyBus (s t : State) : Prop :=
  t.params = s.params ∧ t.status = s.status ∧ t.cal = s.cal ∧ t.raw = s.raw ∧ t.tFine = s.tFine ∧ t.tOut = s.tOut ∧
    t.pOut = s.pOut ∧ t.hOut = s.hOut ∧ t.idLast = s.idLast ∧ t.host = s.host ∧
    s.bus.requests <+: t.bus.requests ∧ t.bus.replies <:+ s.bus.replies ∧ s.draws ≤ t.draws

theorem OnlyBus.noteRequest (reg n : Nat) (s : State) : OnlyBus s (noteRequest reg n s) := by
  simp only [OnlyBus, noteRequest_params, noteRequest_status, noteRequest_cal, noteRequest_raw, noteRequest_tFine,
    noteRequest_tOut, noteRequest_pOut, noteRequest_hOut, noteRequest_idLast, noteRequest_host, noteRequest_bus,
    noteRequest_draws, true_and]
  refine ⟨List.prefix_append _ _, List.tail_suffix _, ?_⟩
  split <;> omega

theorem OnlyBus.trans {s t u : State} (a : OnlyBus s t) (b : OnlyBus t u) : OnlyBus s u := by
  obtain ⟨a1, a2, a3, a4, a5, a6, a7, a8, a9, a10, a11, a12, a13⟩ := a
  obtain ⟨b1, b2, b3, b4, b5, b6, b7, b8, b9, b10, b11, b12, b13⟩ := b
  exact ⟨b1.trans a1, b2.trans a2, b3.trans a3, b4.trans a4, b5.trans a5, b6.trans a6, b7.trans a7, b8.trans a8,
    b9.trans a9, b10.trans a10, a11.trans b11, b12.trans a12, a13.trans b13⟩

theorem OnlyBus.sampleSingle (s : State) : OnlyBus s (sampleSingle s).2 := by
  rw [sampleSingle_state]; exact OnlyBus.noteRequest _ _ _

theorem OnlyBus.sampleSplit (s : State) : OnlyBus s (sampleSplit s).2 := by
  have h1 := OnlyBus.noteRequest s.params.regData.toNat 3 s
  have h2 := h1.trans (OnlyBus.noteRequest (s.params.regData.toNat + 3) 3 _)
  have h3 := h2.trans (OnlyBus.noteRequest (s.params.regData.toNat + 6) 2 _)
  rcases sampleSplit_cases s with ⟨-, h⟩ | ⟨_, -, -, h⟩ | ⟨_, _, -, -, -, h⟩ | ⟨_, _, _, -, -, -, h⟩ <;> rw [h]
  exacts [h1, h2, h3, h3]

/-- A raw read that ends the command (`LDRAW`, `LDRAW.S`): refused, or the sample's end. -/
theorem execLdraw_cases (s : State) :
    (s.status.idst = .mismatch ∧ execLdraw s = .next (raise .notready (beginCommand s))) ∨
    (s.status.idst ≠ .mismatch ∧
      execLdraw s = .next (storeSample (sampleSingle (setFtValid false (beginCommand s))))) := by
  by_cases h : s.status.idst = .mismatch <;> simp [execLdraw, gateRaw, h]

theorem execLdrawS_cases (s : State) :
    (s.status.idst = .mismatch ∧ execLdrawS s = .next (raise .notready (beginCommand s))) ∨
    (s.status.idst ≠ .mismatch ∧
      execLdrawS s = .next (storeSample (sampleSplit (setFtValid false (beginCommand s))))) := by
  by_cases h : s.status.idst = .mismatch <;> simp [execLdrawS, gateRaw, h]

/-- `COMPT`: refused with a code, the fault of a `⊥` register, or `CompT`'s writes. -/
theorem execCompt_cases (s : State) :
    (gateTemperature s.status ≠ .ok ∧ execCompt s = .next (raise (gateTemperature s.status) (beginCommand s))) ∨
    (gateTemperature s.status = .ok ∧ (s.cal = none ∨ s.raw = none) ∧ execCompt s = .fault .bottomRead) ∨
    (∃ c r, gateTemperature s.status = .ok ∧ s.cal = some c ∧ s.raw = some r ∧
      execCompt s = .next (writeTemperature (temperatureOf c r) (beginCommand s))) := by
  by_cases h : gateTemperature s.status = .ok
  · rcases hc : s.cal with _ | c <;> rcases hr : s.raw with _ | r <;> simp [execCompt, h, hc, hr]
  · left
    refine ⟨h, ?_⟩
    simp only [execCompt, beginCommand_status, gateTemperature_perCommand]

/-- `COMPP`: refused with a code, the fault of a `⊥` register, or `CompP`'s writes. -/
theorem execCompp_cases (s : State) :
    (gateFine s.status ≠ .ok ∧ execCompp s = .next (raise (gateFine s.status) (beginCommand s))) ∨
    (gateFine s.status = .ok ∧ (s.cal = none ∨ s.raw = none ∨ s.tFine = none) ∧ execCompp s = .fault .bottomRead) ∨
    (∃ c r fine, gateFine s.status = .ok ∧ s.cal = some c ∧ s.raw = some r ∧ s.tFine = some fine ∧
      execCompp s = .next (writePressure (pressureOf c r fine) (beginCommand s))) := by
  by_cases h : gateFine s.status = .ok
  · rcases hc : s.cal with _ | c <;> rcases hr : s.raw with _ | r <;> rcases hf : s.tFine with _ | f <;>
      simp [execCompp, h, hc, hr, hf]
  · left
    refine ⟨h, ?_⟩
    simp only [execCompp, beginCommand_status, gateFine_perCommand]

/-- `COMPH`: refused with a code, the fault of a `⊥` register, or `CompH`'s writes. -/
theorem execComph_cases (s : State) :
    (gateFine s.status ≠ .ok ∧ execComph s = .next (raise (gateFine s.status) (beginCommand s))) ∨
    (gateFine s.status = .ok ∧ (s.cal = none ∨ s.raw = none ∨ s.tFine = none) ∧ execComph s = .fault .bottomRead) ∨
    (∃ c r fine, gateFine s.status = .ok ∧ s.cal = some c ∧ s.raw = some r ∧ s.tFine = some fine ∧
      execComph s = .next (writeHumidity (humidityOf c r fine) (beginCommand s))) := by
  by_cases h : gateFine s.status = .ok
  · rcases hc : s.cal with _ | c <;> rcases hr : s.raw with _ | r <;> rcases hf : s.tFine with _ | f <;>
      simp [execComph, h, hc, hr, hf]
  · left
    refine ⟨h, ?_⟩
    simp only [execComph, beginCommand_status, gateFine_perCommand]

/-- `MEAS`: refused, the fault of a `⊥` Store, or its raw read and what follows. -/
theorem execMeas_cases (s : State) :
    ((s.status.idst = .mismatch ∨ s.status.calValid = false) ∧
      execMeas s = .next (raise .notready (beginCommand s))) ∨
    ((s.status.idst ≠ .mismatch ∧ s.status.calValid = true) ∧ s.cal = none ∧ execMeas s = .fault .bottomRead) ∨
    (∃ c, (s.status.idst ≠ .mismatch ∧ s.status.calValid = true) ∧ s.cal = some c ∧
      execMeas s = .next (measureFrom c (sampleSingle (setFtValid false (beginCommand s))))) := by
  by_cases h : s.status.idst = .mismatch ∨ s.status.calValid = false
  · left; simp [execMeas, gateReady, h]
  · right
    have hok : gateReady s.status = .ok := by rw [gateReady, if_neg h]
    simp only [not_or, Bool.not_eq_false] at h
    rcases hc : s.cal with _ | c
    · exact .inl ⟨h, rfl, by simp only [execMeas, beginCommand_status, gateReady_perCommand, hok, beginCommand_cal, hc]⟩
    · exact .inr ⟨c, h, rfl, by simp only [execMeas, beginCommand_status, gateReady_perCommand, hok, beginCommand_cal, hc]⟩

/-- `MEAS.S`: refused, the fault of a `⊥` Store, or its raw read and what follows. -/
theorem execMeasS_cases (s : State) :
    ((s.status.idst = .mismatch ∨ s.status.calValid = false) ∧
      execMeasS s = .next (raise .notready (beginCommand s))) ∨
    ((s.status.idst ≠ .mismatch ∧ s.status.calValid = true) ∧ s.cal = none ∧ execMeasS s = .fault .bottomRead) ∨
    (∃ c, (s.status.idst ≠ .mismatch ∧ s.status.calValid = true) ∧ s.cal = some c ∧
      execMeasS s = .next (measureFrom c (sampleSplit (setFtValid false (beginCommand s))))) := by
  by_cases h : s.status.idst = .mismatch ∨ s.status.calValid = false
  · left; simp [execMeasS, gateReady, h]
  · right
    have hok : gateReady s.status = .ok := by rw [gateReady, if_neg h]
    simp only [not_or, Bool.not_eq_false] at h
    rcases hc : s.cal with _ | c
    · exact .inl ⟨h, rfl, by simp only [execMeasS, beginCommand_status, gateReady_perCommand, hok, beginCommand_cal, hc]⟩
    · exact .inr ⟨c, h, rfl, by simp only [execMeasS, beginCommand_status, gateReady_perCommand, hok, beginCommand_cal, hc]⟩

/-! ### The Host's step -/

/-- Everything a step that goes on can do. -/
theorem step_cases {s t : State} (h : step s = .next t) :
    (s.host.pending = [] ∧ t = s) ∨
    (∃ w rest, s.host.pending = .write cmdIndex w :: rest ∧ runWord w (setPending rest s) = .next t) ∨
    (∃ index v rest, s.host.pending = .read index :: rest ∧ hostRead s index = .ok v ∧
      t = setReceived v (setPending rest s)) ∨
    (∃ rest, s.host.pending = .sequence [] :: rest ∧ t = setPending rest s) ∨
    (∃ w words rest u, s.host.pending = .sequence (w :: words) :: rest ∧ runWord w (setPending rest s) = .next u ∧
      ((words = [] ∨ u.status.err ≠ .ok) ∧ t = u ∨
        (words ≠ [] ∧ u.status.err = .ok) ∧ t = setPending (.sequence words :: u.host.pending) u)) := by
  simp only [step, hostStep] at h
  split at h
  · rename_i hp; left; exact ⟨hp, by simpa using h.symm⟩
  · rename_i i w rest hp
    split at h
    · rename_i hi; subst hi; right; left; exact ⟨w, rest, hp, h⟩
    · cases h
  · rename_i i rest hp
    split at h
    · rename_i v hv; right; right; left; exact ⟨i, v, rest, hp, hv, by simpa using h.symm⟩
    · cases h
  · rename_i rest hp; right; right; right; left; exact ⟨rest, hp, by simpa using h.symm⟩
  · rename_i w words rest hp
    right; right; right; right
    rcases hr : runWord w (setPending rest s) with u | f | f <;> rw [hr] at h <;> simp only [continueSequence] at h
    · refine ⟨w, words, rest, u, hp, hr, ?_⟩
      split at h <;> rename_i hw
      · left; exact ⟨hw, by simpa using h.symm⟩
      · right
        simp only [not_or, ne_eq, not_not] at hw
        exact ⟨hw, by simpa using h.symm⟩
    · cases h
    · cases h

/-- A written word runs a command or is illegal. -/
theorem runWord_cases {w : Byte} {s t : State} (h : runWord w s = .next t) :
    (∃ i, decode s.params.singleBurst w = .ok i ∧ exec i s = .next t) ∨
    ((∃ why, decode s.params.singleBurst w = .error why) ∧ t = raise .illegal (beginCommand s)) := by
  simp only [runWord] at h
  split at h
  · rename_i i hi; left; exact ⟨i, hi, h⟩
  · rename_i e he; right; exact ⟨⟨e, he⟩, by simpa [execIllegal] using h.symm⟩

/-- A property that every command, an illegal word and the Host's own bookkeeping keep is kept by every step. -/
theorem step_keeps {P : State → Prop} (host : ∀ s h, P s → P { s with host := h })
    (illegal : ∀ s, P s → P (raise .illegal (beginCommand s)))
    (command : ∀ i s t, P s → exec i s = .next t → P t) {s t : State} (hs : P s) (h : step s = .next t) : P t := by
  have run : ∀ w rest u, runWord w (setPending rest s) = .next u → P u := by
    intro w rest u hr
    rcases runWord_cases hr with ⟨i, -, hi⟩ | ⟨-, rfl⟩
    · exact command i _ u (host _ _ hs) hi
    · exact illegal _ (host _ _ hs)
  rcases step_cases h with ⟨-, rfl⟩ | ⟨w, rest, -, hr⟩ | ⟨i, v, rest, -, -, rfl⟩ | ⟨rest, -, rfl⟩ |
    ⟨w, words, rest, u, -, hr, ⟨-, rfl⟩ | ⟨-, rfl⟩⟩
  · exact hs
  · exact run w rest t hr
  · exact host s _ hs
  · exact host s _ hs
  · exact run w rest t hr
  · exact host _ _ (run w rest u hr)

end Sys2Proof.Machine
end

