-- ==== Sys2Proof/Laws/Compensation.lean ====
section
/-! SUPPORT. What the compensation functions and their register writes do: the degenerate path (42_compensation.md R93),
the clamp of humidity (R98), the values an overflow leaves (R90), and the ranges of H4 and H5 (10_state.md R24). -/

namespace Sys2Proof.Machine

open Sys2Proof.Safety

/-- `CompP` is degenerate exactly when its divisor is 0 (42_compensation.md R93). -/
theorem compP_degen_iff (rawP : BitVec 20) (p1 p2 p3 p4 p5 p6 p7 p8 p9 : BitVec 16) (fine : BitVec 32) :
    (compP rawP p1 p2 p3 p4 p5 p6 p7 p8 p9 fine).degen = true ↔ (pressureTerms p1 p2 p3 p4 p5 p6 fine).var1c = 0 := by
  unfold compP
  generalize pressureTerms p1 p2 p3 p4 p5 p6 fine = v
  by_cases h : v.var1c = 0 <;> simp [h, pressureQuotient]

/-- The degenerate path gives the sentinel 0 (42_compensation.md R93). -/
theorem compP_degen_zero (rawP : BitVec 20) (p1 p2 p3 p4 p5 p6 p7 p8 p9 : BitVec 16) (fine : BitVec 32)
    (h : (compP rawP p1 p2 p3 p4 p5 p6 p7 p8 p9 fine).degen = true) :
    (compP rawP p1 p2 p3 p4 p5 p6 p7 p8 p9 fine).p = 0#64 := by
  rw [compP_degen_iff] at h
  unfold compP
  generalize pressureTerms p1 p2 p3 p4 p5 p6 fine = v at h
  simp [h]

/-- `CompH` never exceeds 100 % (42_compensation.md R95, R98). -/
theorem compH_le (rawH : BitVec 16) (h1 : BitVec 8) (h2 : BitVec 16) (h3 : BitVec 8) (h4 h5 : BitVec 16) (h6 : BitVec 8)
    (fine : BitVec 32) : (compH rawH h1 h2 h3 h4 h5 h6 fine).h.toNat ≤ 102400 := by
  unfold compH
  simp only [addN, subN, mulN, shlN, narrow]
  generalize wrap 32 _ = v2
  have hc : 0 ≤ clamp v2 0 419430400 ∧ clamp v2 0 419430400 ≤ 419430400 := by
    unfold clamp
    split
    · omega
    · split <;> omega
  generalize clamp v2 0 419430400 = v3 at hc
  have hq : 0 ≤ asrN v3 12 ∧ asrN v3 12 ≤ 102400 := by unfold asrN; constructor <;> omega
  generalize asrN v3 12 = q at hq
  simp only [BitVec.toNat_ofInt]
  omega

/-- The draw of `H_OUT` is bounded too (42_compensation.md R90). -/
theorem humidityDraw_le (k : Nat) : (humidityDraw k).toNat ≤ 102400 := by
  have := (Config.anyHumidity k).isLt
  simp only [humidityDraw, BitVec.toNat_ofNat]
  omega

/-- Whatever `H_OUT` receives is in 0 .. 102400 (42_compensation.md R98). -/
theorem humidityWritten_le (free : Bool) (c : Calibration) (r : RawSample) (fine : BitVec 32) (s : State) :
    (outputValue free humidityDraw (humidityOf c r fine).h s).toNat ≤ 102400 := by
  unfold outputValue
  split
  · exact humidityDraw_le _
  · exact compH_le ..

/-- Whether a result is free (42_compensation.md R90). -/
theorem drawsResult_eq_true_iff (ovf : Bool) (s : State) :
    drawsResult ovf s = true ↔ s.params.ovfPolicy = .anyvalue ∧ ovf = true := by
  simp [drawsResult, and_comm]

/-- Under `wrap`, or without an overflow, no result is free (42_compensation.md R90). -/
theorem drawsResult_of_computed {ovf : Bool} {s : State} (h : Computed s ovf) : drawsResult ovf s = false := by
  rcases h with h | h <;> simp [drawsResult, h]

/-- `P_OUT` after a degenerate pressure: the sentinel, unless it is free (42_compensation.md R94, R90). -/
theorem degeneratePressure_zero_or_free (c : Calibration) (r : RawSample) (fine : BitVec 32) (s : State)
    (h : (pressureOf c r fine).degen = true) :
    outputValue (drawsResult (pressureOf c r fine).ovf s) Config.anyPressure (pressureOf c r fine).p s = 0#64 ∨
      (s.params.ovfPolicy = .anyvalue ∧ (pressureOf c r fine).ovf = true) := by
  unfold outputValue
  split
  · rename_i hd; exact .inr ((drawsResult_eq_true_iff _ _).1 hd)
  · exact .inl (compP_degen_zero _ _ _ _ _ _ _ _ _ _ _ h)

/-- `T_OUT` is what `CompT` computes, unless it is free (42_compensation.md R92, R90). -/
theorem temperatureWritten_computed_or_free (x : TemperatureResult) (s : State) :
    outputValue (drawsResult x.ovf s) Config.anyTemperature x.tout s = x.tout ∨
      (s.params.ovfPolicy = .anyvalue ∧ x.ovf = true) := by
  by_cases hd : drawsResult x.ovf s = true
  · exact .inr ((drawsResult_eq_true_iff _ _).1 hd)
  · left; simp [outputValue, hd]

/-- A 12-bit constant stays in its range (10_state.md R24, 40_calibration.md R78, R79). -/
theorem extend12_twelveBit (h45Signed : Bool) (v : BitVec 12) : TwelveBit h45Signed (extend12 h45Signed v) := by
  cases h45Signed
  · have := v.isLt
    simp only [TwelveBit, extend12, Bool.false_eq_true, if_false, BitVec.toNat_setWidth]
    omega
  · have lo := BitVec.le_toInt (x := v)
    have hi := BitVec.toInt_lt (x := v)
    simp only [TwelveBit, extend12, if_true, BitVec.toInt_signExtend_of_le (show 12 ≤ 16 by decide)]
    simp at lo hi
    omega

/-! ### The register writes when nothing is free -/

theorem writeTemperature_of_computed {s : State} {x : TemperatureResult} (h : Computed s x.ovf) :
    writeTemperature x s = { s with
      tFine := some x.fine, tOut := some x.tout
      status := { s.status with ftValid := true, ovf := s.status.ovf || x.ovf } } := by
  simp [writeTemperature, drawsResult_of_computed h, outputValue, noteDraw, joinOvf, setFtValid]

theorem writePressure_of_computed {s : State} {x : PressureResult} (h : Computed s x.ovf) :
    writePressure x s = { s with
      pOut := some x.p
      status := { s.status with degen := x.degen, ovf := s.status.ovf || x.ovf } } := by
  simp [writePressure, drawsResult_of_computed h, outputValue, noteDraw, joinOvf, setDegen]

theorem writeHumidity_of_computed {s : State} {x : HumidityResult} (h : Computed s x.ovf) :
    writeHumidity x s = { s with
      hOut := some x.h
      status := { s.status with ovf := s.status.ovf || x.ovf } } := by
  simp [writeHumidity, drawsResult_of_computed h, outputValue, noteDraw, joinOvf]

/-- The whole of `MEAS`'s compensation part when nothing is free (43_measure.md R100). -/
theorem writeAll_of_computed {s : State} {x : TemperatureResult} {y : PressureResult} {z : HumidityResult}
    (h : Computed s (x.ovf || y.ovf || z.ovf)) :
    writeAll x y z s = { s with
      tFine := some x.fine, tOut := some x.tout, pOut := some y.p, hOut := some z.h
      status := { s.status with
        ftValid := true, degen := y.degen, ovf := s.status.ovf || x.ovf || y.ovf || z.ovf } } := by
  have part : ∀ o, (o = true → (x.ovf || y.ovf || z.ovf) = true) → Computed s o := by
    intro o ho
    rcases h with h | h
    · exact .inl h
    · right; cases o <;> simp_all
  have hx : Computed s x.ovf := part _ fun h => by simp [h]
  have hy : Computed s y.ovf := part _ fun h => by simp [h]
  have hz : Computed s z.ovf := part _ fun h => by simp [h]
  rw [writeAll, writeTemperature_of_computed hx, writePressure_of_computed (by exact hy),
    writeHumidity_of_computed (by exact hz)]

/-! ### The commands past their checks -/

theorem execCompt_of_ready {s : State} {c : Calibration} {r : RawSample} (h : ReadyForTemperature s c r) :
    execCompt s = .next (writeTemperature (temperatureOf c r) (beginCommand s)) := by
  obtain ⟨h1, h2, h3, h4, h5⟩ := h
  have g : gateTemperature s.status = .ok := (gateTemperature_eq_ok_iff _).2 ⟨h1, h2, h3⟩
  rcases execCompt_cases s with ⟨k, -⟩ | ⟨-, hc, -⟩ | ⟨c', r', -, hc, hr, e⟩
  · exact absurd g k
  · simp [h4, h5] at hc
  · rw [h4] at hc; rw [h5] at hr; cases hc; cases hr; exact e

theorem execCompp_of_ready {s : State} {c : Calibration} {r : RawSample} {fine : BitVec 32}
    (h : ReadyForFine s c r fine) :
    execCompp s = .next (writePressure (pressureOf c r fine) (beginCommand s)) := by
  obtain ⟨h1, h2, h3, h4, h5, h6, h7⟩ := h
  have g : gateFine s.status = .ok := (gateFine_eq_ok_iff _).2 ⟨h1, h2, h3, h4⟩
  rcases execCompp_cases s with ⟨k, -⟩ | ⟨-, hc, -⟩ | ⟨c', r', f', -, hc, hr, hf, e⟩
  · exact absurd g k
  · simp [h5, h6, h7] at hc
  · rw [h5] at hc; rw [h6] at hr; rw [h7] at hf; cases hc; cases hr; cases hf; exact e

theorem execComph_of_ready {s : State} {c : Calibration} {r : RawSample} {fine : BitVec 32}
    (h : ReadyForFine s c r fine) :
    execComph s = .next (writeHumidity (humidityOf c r fine) (beginCommand s)) := by
  obtain ⟨h1, h2, h3, h4, h5, h6, h7⟩ := h
  have g : gateFine s.status = .ok := (gateFine_eq_ok_iff _).2 ⟨h1, h2, h3, h4⟩
  rcases execComph_cases s with ⟨k, -⟩ | ⟨-, hc, -⟩ | ⟨c', r', f', -, hc, hr, hf, e⟩
  · exact absurd g k
  · simp [h5, h6, h7] at hc
  · rw [h5] at hc; rw [h6] at hr; rw [h7] at hf; cases hc; cases hr; cases hf; exact e

/-- `MEAS` past its check: its raw read and what follows (43_measure.md R100). -/
theorem execMeas_of_ready {s : State} {c : Calibration} (h : ReadyToMeasure s c) :
    execMeas s = .next (measureFrom c (sampleSingle (setFtValid false (beginCommand s)))) := by
  obtain ⟨h1, h2, h3⟩ := h
  rcases execMeas_cases s with ⟨k, -⟩ | ⟨-, hc, -⟩ | ⟨c', -, hc, e⟩
  · simp [h1, h2] at k
  · simp [h3] at hc
  · rw [h3] at hc; cases hc; exact e

/-- `MEAS.S` past its check: its raw read and what follows (43_measure.md R101). -/
theorem execMeasS_of_ready {s : State} {c : Calibration} (h : ReadyToMeasure s c) :
    execMeasS s = .next (measureFrom c (sampleSplit (setFtValid false (beginCommand s)))) := by
  obtain ⟨h1, h2, h3⟩ := h
  rcases execMeasS_cases s with ⟨k, -⟩ | ⟨-, hc, -⟩ | ⟨c', -, hc, e⟩
  · simp [h1, h2] at k
  · simp [h3] at hc
  · rw [h3] at hc; cases hc; exact e

/-- `MEAS` from a full raw read on, when nothing is free (43_measure.md R100). -/
theorem measureFrom_of_computed {c : Calibration} {r : RawSample} {s : State} {x : TemperatureResult}
    {y : PressureResult} {z : HumidityResult} (hx : temperatureOf c r = x) (hy : pressureOf c r x.fine = y)
    (hz : humidityOf c r x.fine = z) (h : Computed s (x.ovf || y.ovf || z.ovf)) :
    measureFrom c (some r, s) = { s with
      raw := some r, tFine := some x.fine, tOut := some x.tout, pOut := some y.p, hOut := some z.h
      status := { s.status with
        rawValid := true, ftValid := true, degen := y.degen, ovf := s.status.ovf || x.ovf || y.ovf || z.ovf } } := by
  obtain ⟨x', y', z', hx', hy', hz', e⟩ := compensateAll_eq_writeAll c r (writeRaw r s)
  obtain rfl : x = x' := (hx'.trans hx).symm
  obtain rfl : y = y' := (hy'.trans hy).symm
  obtain rfl : z = z' := (hz'.trans hz).symm
  rw [measureFrom, e, writeAll_of_computed (by exact h)]
  rfl

end Sys2Proof.Machine
end

