-- ==== Sys2Proof/Laws/Commands.lean ====
section
/-! SUPPORT. Every way a command can end in a next state, said once for all nine commands, with the bursts it asked for. -/

namespace Sys2Proof.Machine

open Sys2Proof.Safety

/-! ### The state after bursts -/

@[simp] theorem afterBursts_params (b : List BurstRequest) (s : State) : (afterBursts b s).params = s.params := rfl
@[simp] theorem afterBursts_status (b : List BurstRequest) (s : State) : (afterBursts b s).status = s.status := rfl
@[simp] theorem afterBursts_cal (b : List BurstRequest) (s : State) : (afterBursts b s).cal = s.cal := rfl
@[simp] theorem afterBursts_raw (b : List BurstRequest) (s : State) : (afterBursts b s).raw = s.raw := rfl
@[simp] theorem afterBursts_tFine (b : List BurstRequest) (s : State) : (afterBursts b s).tFine = s.tFine := rfl
@[simp] theorem afterBursts_tOut (b : List BurstRequest) (s : State) : (afterBursts b s).tOut = s.tOut := rfl
@[simp] theorem afterBursts_pOut (b : List BurstRequest) (s : State) : (afterBursts b s).pOut = s.pOut := rfl
@[simp] theorem afterBursts_hOut (b : List BurstRequest) (s : State) : (afterBursts b s).hOut = s.hOut := rfl
@[simp] theorem afterBursts_idLast (b : List BurstRequest) (s : State) : (afterBursts b s).idLast = s.idLast := rfl
@[simp] theorem afterBursts_bus (b : List BurstRequest) (s : State) :
    (afterBursts b s).bus =
      { replies := s.bus.replies.drop b.length, requests := s.bus.requests ++ b } := rfl
@[simp] theorem afterBursts_draws (b : List BurstRequest) (s : State) :
    (afterBursts b s).draws = s.draws + (b.length - s.bus.replies.length) := rfl
@[simp] theorem afterBursts_host (b : List BurstRequest) (s : State) : (afterBursts b s).host = s.host := rfl

/-- The state a command that reads the transport is in after its first `n` bursts, its `FT_VALID` cleared. -/
def started (i : Instr) (n : Nat) (s : State) : State :=
  afterBursts ((burstsOf s.params i).take n) (setFtValid false (beginCommand s))

/-! ### The raw reads, whichever form they have -/

/-- The raw read of `i` (the single one, or the split one). -/
def rawRead (i : Instr) (s : State) : Option RawSample × State :=
  if i = .ldraw ∨ i = .meas then sampleSingle s else sampleSplit s

/-- A raw read ends after some of its bursts with none, or after all of them with a sample. -/
theorem rawRead_cases {i : Instr} (hi : i = .ldraw ∨ i = .ldrawS ∨ i = .meas ∨ i = .measS) (s : State) :
    (∃ n, 1 ≤ n ∧ n ≤ 3 ∧ rawRead i (setFtValid false (beginCommand s)) = (none, started i n s)) ∨
    (∃ r, rawRead i (setFtValid false (beginCommand s)) = (some r, started i 3 s)) := by
  have single : ∀ j, (j = .ldraw ∨ j = .meas) → ∀ n, 1 ≤ n →
      (sampleSingle (setFtValid false (beginCommand s))).2 = started j n s := by
    rintro j (rfl | rfl) n hn <;>
      rw [sampleSingle_state, noteRequest_eq_afterBursts, started] <;>
      (obtain ⟨m, rfl⟩ : ∃ m, n = m + 1 := ⟨n - 1, by omega⟩) <;> simp [burstsOf]
  have split : ∀ j, (j = .ldrawS ∨ j = .measS) →
      (∃ n, 1 ≤ n ∧ n ≤ 3 ∧ sampleSplit (setFtValid false (beginCommand s)) = (none, started j n s)) ∨
      (∃ r, sampleSplit (setFtValid false (beginCommand s)) = (some r, started j 3 s)) := by
    rintro j (rfl | rfl) <;>
      rcases sampleSplit_cases (setFtValid false (beginCommand s)) with
        ⟨-, h⟩ | ⟨_, -, -, h⟩ | ⟨_, _, -, -, -, h⟩ | ⟨_, _, _, -, -, -, h⟩
    · exact .inl ⟨1, by decide, by decide, by rw [h, noteRequest_eq_afterBursts]; rfl⟩
    · exact .inl ⟨2, by decide, by decide, by rw [h, noteRequest_two]; rfl⟩
    · exact .inl ⟨3, by decide, by decide, by rw [h, noteRequest_three]; rfl⟩
    · exact .inr ⟨_, by rw [h, noteRequest_three]; rfl⟩
    · exact .inl ⟨1, by decide, by decide, by rw [h, noteRequest_eq_afterBursts]; rfl⟩
    · exact .inl ⟨2, by decide, by decide, by rw [h, noteRequest_two]; rfl⟩
    · exact .inl ⟨3, by decide, by decide, by rw [h, noteRequest_three]; rfl⟩
    · exact .inr ⟨_, by rw [h, noteRequest_three]; rfl⟩
  rcases hi with rfl | rfl | rfl | rfl
  · rw [rawRead, if_pos (.inl rfl)]
    have h := single .ldraw (.inl rfl)
    rcases hs : sampleSingle (setFtValid false (beginCommand s)) with ⟨_ | r, u⟩ <;> rw [hs] at h
    · exact .inl ⟨1, by decide, by decide, by rw [← h 1 (by decide)]⟩
    · exact .inr ⟨r, by rw [← h 3 (by decide)]⟩
  · rw [rawRead, if_neg (by simp)]
    exact split _ (.inl rfl)
  · rw [rawRead, if_pos (.inr rfl)]
    have h := single .meas (.inr rfl)
    rcases hs : sampleSingle (setFtValid false (beginCommand s)) with ⟨_ | r, u⟩ <;> rw [hs] at h
    · exact .inl ⟨1, by decide, by decide, by rw [← h 1 (by decide)]⟩
    · exact .inr ⟨r, by rw [← h 3 (by decide)]⟩
  · rw [rawRead, if_neg (by simp)]
    exact split _ (.inr rfl)

/-! ### All nine commands -/

/-- Every way a command can end in a next state: refused before it did anything, or one of its own ends. -/
theorem exec_next_cases {i : Instr} {s t : State} (h : exec i s = .next t) :
    (∃ e, e ≠ .ok ∧ i ∉ [.idchk, .ldcal] ∧ t = raise e (beginCommand s)) ∨
    (i = .idchk ∧
      let u := afterBursts (burstsOf s.params .idchk) (beginCommand s)
      (t = raise .transport u ∨
        t = setIdst .ok { u with idLast := some s.params.idExpected } ∨
        ∃ b, b ≠ s.params.idExpected ∧ t = raise .nodev (setIdst .mismatch { u with idLast := some b }))) ∨
    (i = .ldcal ∧
      ((∃ n, 1 ≤ n ∧ n ≤ 3 ∧ t = calibrationFailed (started .ldcal n s)) ∨
        ∃ tp h1 h, t = setCalValid true
          { started .ldcal 3 s with cal := some (decodeCal s.params.h45Signed tp h1 h) })) ∨
    (i ∈ [.ldraw, .ldrawS] ∧ s.status.idst ≠ .mismatch ∧
      ((∃ n, 1 ≤ n ∧ n ≤ 3 ∧ t = rawFailed (started i n s)) ∨ ∃ r, t = writeRaw r (started i 3 s))) ∨
    (i = .compt ∧ ∃ c r x, gateTemperature s.status = .ok ∧ s.cal = some c ∧ s.raw = some r ∧
      x = temperatureOf c r ∧ t = writeTemperature x (beginCommand s)) ∨
    (i = .compp ∧ ∃ c r fine x, gateFine s.status = .ok ∧ s.cal = some c ∧ s.raw = some r ∧ s.tFine = some fine ∧
      x = pressureOf c r fine ∧ t = writePressure x (beginCommand s)) ∨
    (i = .comph ∧ ∃ c r fine x, gateFine s.status = .ok ∧ s.cal = some c ∧ s.raw = some r ∧ s.tFine = some fine ∧
      x = humidityOf c r fine ∧ t = writeHumidity x (beginCommand s)) ∨
    (i ∈ [.meas, .measS] ∧ s.status.idst ≠ .mismatch ∧ s.status.calValid = true ∧ ∃ c, s.cal = some c ∧
      ((∃ n, 1 ≤ n ∧ n ≤ 3 ∧ t = rawFailed (started i n s)) ∨
        ∃ r x y z, x = temperatureOf c r ∧ y = pressureOf c r x.fine ∧
          z = humidityOf c r x.fine ∧
          t = writeAll x y z (writeRaw r (started i 3 s)))) := by
  cases i <;> simp only [exec] at h
  · right; left
    rcases execIdchk_cases s with ⟨-, e⟩ | ⟨v, -, hv, e⟩ | ⟨v, -, hv, e⟩ <;> rw [e, noteRequest_eq_afterBursts] at h <;>
      cases h
    · exact ⟨rfl, .inl rfl⟩
    · exact ⟨rfl, .inr (.inl (by rw [hv]; rfl))⟩
    · exact ⟨rfl, .inr (.inr ⟨_, hv, rfl⟩)⟩
  · right; right; left
    rcases execLdcal_cases s with ⟨-, e⟩ | ⟨_, -, -, e⟩ | ⟨_, _, -, -, -, e⟩ | ⟨tp, h1, b, -, -, -, e⟩ <;> rw [e] at h <;>
      cases h
    · exact ⟨rfl, .inl ⟨1, by decide, by decide, by rw [noteRequest_eq_afterBursts]; rfl⟩⟩
    · exact ⟨rfl, .inl ⟨2, by decide, by decide, by rw [noteRequest_two]; rfl⟩⟩
    · exact ⟨rfl, .inl ⟨3, by decide, by decide, by rw [noteRequest_three]; rfl⟩⟩
    · exact ⟨rfl, .inr ⟨tp, h1, b, by rw [noteRequest_three]; rfl⟩⟩
  · rcases execLdraw_cases s with ⟨-, e⟩ | ⟨k, e⟩ <;> rw [e] at h <;> cases h
    · exact .inl ⟨.notready, by simp, by simp, rfl⟩
    · right; right; right; left
      refine ⟨by simp, k, ?_⟩
      rcases rawRead_cases (i := .ldraw) (by simp) s with ⟨n, h1, h3, e⟩ | ⟨r, e⟩ <;>
        rw [rawRead, if_pos (.inl rfl)] at e <;> rw [e]
      · exact .inl ⟨n, h1, h3, rfl⟩
      · exact .inr ⟨r, rfl⟩
  · rcases execLdrawS_cases s with ⟨-, e⟩ | ⟨k, e⟩ <;> rw [e] at h <;> cases h
    · exact .inl ⟨.notready, by simp, by simp, rfl⟩
    · right; right; right; left
      refine ⟨by simp, k, ?_⟩
      rcases rawRead_cases (i := .ldrawS) (by simp) s with ⟨n, h1, h3, e⟩ | ⟨r, e⟩ <;>
        rw [rawRead, if_neg (by simp)] at e <;> rw [e]
      · exact .inl ⟨n, h1, h3, rfl⟩
      · exact .inr ⟨r, rfl⟩
  · rcases execCompt_cases s with ⟨k, e⟩ | ⟨-, -, e⟩ | ⟨c, r, hg, hc, hr, e⟩ <;> rw [e] at h <;> cases h
    · exact .inl ⟨_, k, by simp, rfl⟩
    · exact .inr (.inr (.inr (.inr (.inl ⟨rfl, c, r, _, hg, hc, hr, rfl, rfl⟩))))
  · rcases execCompp_cases s with ⟨k, e⟩ | ⟨-, -, e⟩ | ⟨c, r, f, hg, hc, hr, hf, e⟩ <;> rw [e] at h <;> cases h
    · exact .inl ⟨_, k, by simp, rfl⟩
    · exact .inr (.inr (.inr (.inr (.inr (.inl ⟨rfl, c, r, f, _, hg, hc, hr, hf, rfl, rfl⟩)))))
  · rcases execComph_cases s with ⟨k, e⟩ | ⟨-, -, e⟩ | ⟨c, r, f, hg, hc, hr, hf, e⟩ <;> rw [e] at h <;> cases h
    · exact .inl ⟨_, k, by simp, rfl⟩
    · exact .inr (.inr (.inr (.inr (.inr (.inr (.inl ⟨rfl, c, r, f, _, hg, hc, hr, hf, rfl, rfl⟩))))))
  · rcases execMeas_cases s with ⟨-, e⟩ | ⟨-, -, e⟩ | ⟨c, hv, hc, e⟩ <;> rw [e] at h <;> cases h
    · exact .inl ⟨.notready, by simp, by simp, rfl⟩
    · refine .inr (.inr (.inr (.inr (.inr (.inr (.inr ⟨by simp, hv.1, hv.2, c, hc, ?_⟩))))))
      rcases rawRead_cases (i := .meas) (by simp) s with ⟨n, h1, h3, e⟩ | ⟨r, e⟩ <;>
        rw [rawRead, if_pos (.inr rfl)] at e <;> rw [e]
      · exact .inl ⟨n, h1, h3, rfl⟩
      · obtain ⟨x, y, z, hx, hy, hz, e⟩ := compensateAll_eq_writeAll c r (writeRaw r (started .meas 3 s))
        exact .inr ⟨r, x, y, z, hx, hy, hz, e⟩
  · rcases execMeasS_cases s with ⟨-, e⟩ | ⟨-, -, e⟩ | ⟨c, hv, hc, e⟩ <;> rw [e] at h <;> cases h
    · exact .inl ⟨.notready, by simp, by simp, rfl⟩
    · refine .inr (.inr (.inr (.inr (.inr (.inr (.inr ⟨by simp, hv.1, hv.2, c, hc, ?_⟩))))))
      rcases rawRead_cases (i := .measS) (by simp) s with ⟨n, h1, h3, e⟩ | ⟨r, e⟩ <;>
        rw [rawRead, if_neg (by simp)] at e <;> rw [e]
      · exact .inl ⟨n, h1, h3, rfl⟩
      · obtain ⟨x, y, z, hx, hy, hz, e⟩ := compensateAll_eq_writeAll c r (writeRaw r (started .measS 3 s))
        exact .inr ⟨r, x, y, z, hx, hy, hz, e⟩

end Sys2Proof.Machine
end

