-- ==== Sys2Proof/Laws/PerInstr.lean ====
section
/-! SUPPORT. The family `CommandWord`: a fact about every command's word, one lemma per constructor. -/

namespace Sys2Proof.Laws.CommandWord

/-- The word of `i` has `RSV` = 000, is legal exactly on the devices that have `i` (30_encoding.md R63, R66), and has
`S` = 1 only in the two split forms (30_encoding.md R65). -/
def Statement (i : Instr) : Prop :=
  reservedField (encode i) = 0#3 ∧ (∀ singleBurst, legal singleBurst (encode i) = i.wellFormed singleBurst) ∧
    (splitField (encode i) = true ↔ i = .ldrawS ∨ i = .measS)

theorem idchk : Statement .idchk := by unfold Statement; decide
theorem ldcal : Statement .ldcal := by unfold Statement; decide
theorem ldraw : Statement .ldraw := by unfold Statement; decide
theorem ldrawS : Statement .ldrawS := by unfold Statement; decide
theorem compt : Statement .compt := by unfold Statement; decide
theorem compp : Statement .compp := by unfold Statement; decide
theorem comph : Statement .comph := by unfold Statement; decide
theorem meas : Statement .meas := by unfold Statement; decide
theorem measS : Statement .measS := by unfold Statement; decide

end Sys2Proof.Laws.CommandWord
end

