-- ==== Sys2Proof/Tests/Slice0.lean ====
section
/-! SUPPORT. Tests: the well-formedness checks, the encoding, the worked examples and vectors of 95_test_vectors.md on one
step each, and for every statement with hypotheses a state and operands that meet them. -/

namespace Sys2Proof.Tests

open Sys2Proof.Machine Sys2Proof.Safety

/-! ### The bytes and states of 95_test_vectors.md -/

/-- TPW. -/
def tpw : List Byte :=
  [0x70#8, 0x6B#8, 0x43#8, 0x67#8, 0x18#8, 0xFC#8, 0x7D#8, 0x8E#8] ++
  [0x43#8, 0xD6#8, 0xD0#8, 0x0B#8, 0x27#8, 0x0B#8, 0x8C#8, 0x00#8] ++
  [0xF9#8, 0xFF#8, 0x8C#8, 0x3C#8, 0xF8#8, 0xC6#8, 0x70#8, 0x17#8]

/-- HR. -/
def hr : List Byte := [0x6A#8, 0x01#8, 0x00#8, 0x13#8, 0x29#8, 0x03#8, 0x1E#8]

/-- DW. -/
def dw : List Byte := [0x65#8, 0x5A#8, 0xC0#8, 0x7E#8, 0xED#8, 0x00#8, 0x75#8, 0x30#8]

/-- CalW, from the values of its program P1. -/
def calW : Calibration where
  t1 := 27504#16
  t2 := 26435#16
  t3 := -1000#16
  p1 := 36477#16
  p2 := -10685#16
  p3 := 3024#16
  p4 := 2855#16
  p5 := 140#16
  p6 := -7#16
  p7 := 15500#16
  p8 := -14600#16
  p9 := 6000#16
  h1 := 75#8
  h2 := 362#16
  h3 := 0#8
  h4 := 313#16
  h5 := 50#16
  h6 := 30#8

/-- The raw sample of DW. -/
def rawW : RawSample := { p := 415148#20, t := 519888#20, h := 30000#16 }

/-- After reset, with answers waiting in the transport. -/
def answering (replies : List (List Byte)) : State := { State.reset with bus := { replies := replies, requests := [] } }

/-- `IDST` UNCHECKED with the three validity flags as given, over registers that hold the worked values. -/
def worked (calValid rawValid ftValid : Bool) : State :=
  { State.reset with
    status := { Status.reset with calValid := calValid, rawValid := rawValid, ftValid := ftValid }
    cal := some calW, raw := some rawW, tFine := some 128422#32, tOut := some 2508#32 }

/-- The same with answers waiting. -/
def workedAnswering (calValid rawValid ftValid : Bool) (replies : List (List Byte)) : State :=
  { worked calValid rawValid ftValid with bus := { replies := replies, requests := [] } }

/-- The same with a wrong identity on record. -/
def mismatched : State :=
  { worked true true true with
    status := { (worked true true true).status with idst := .mismatch }, idLast := some 0x58#8 }

/-- The Host about to do one thing. -/
def about (a : HostAction) (s : State) : State := { s with host := { pending := [a], received := none } }

/-- What a test looks at: `STATUS` and one more thing of the next state. -/
def view {α : Type} (f : State → α) (r : Host.Outcome State Fault Refusal) : Option (BitVec 16 × α) :=
  match r with
  | .next s => some (statusWord s.status, f s)
  | .fault _ => none
  | .refused _ => none

/-! ### Well-formedness: a term that each check refuses -/

theorem test_ldraw_needs_single_burst :
    Instr.ldraw.wellFormed false = false ∧ Instr.ldraw.wellFormed true = true := by decide

theorem test_meas_needs_single_burst :
    Instr.meas.wellFormed false = false ∧ Instr.meas.wellFormed true = true := by decide

theorem test_default_parameters_well_formed : Params.default.wellFormed = true := by decide

theorem test_id_burst_past_the_end : Params.wellFormed { Params.default with regId := 0xD0#8, regAddrWidth := 7 } = false := by
  decide

theorem test_calibration_burst_past_the_end : Params.wellFormed { Params.default with regCalTp := 0xE9#8 } = false := by decide

theorem test_h1_burst_past_the_end :
    Params.wellFormed { Params.default with
      regId := 0#8, regCalTp := 0#8, regCalH := 0#8, regData := 0#8, regCalH1 := 0x80#8, regAddrWidth := 7 } = false := by
  decide

theorem test_humidity_burst_past_the_end : Params.wellFormed { Params.default with regCalH := 0xFA#8 } = false := by decide

theorem test_data_burst_past_the_end : Params.wellFormed { Params.default with regData := 0xF9#8 } = false := by decide

/-! ### Encoding: words written bit by bit, `RSV` `S` `OP`, from 30_encoding.md R63 and R65 -/

theorem test_decode_idchk : decode true (0b000#3 ++ 0b0#1 ++ 0b0001#4) = .ok .idchk := by decide
theorem test_decode_ldcal : decode true (0b000#3 ++ 0b0#1 ++ 0b0010#4) = .ok .ldcal := by decide
theorem test_decode_ldraw : decode true (0b000#3 ++ 0b0#1 ++ 0b0011#4) = .ok .ldraw := by decide
theorem test_decode_ldrawS : decode false (0b000#3 ++ 0b1#1 ++ 0b0011#4) = .ok .ldrawS := by decide
theorem test_decode_compt : decode true (0b000#3 ++ 0b0#1 ++ 0b0100#4) = .ok .compt := by decide
theorem test_decode_compp : decode true (0b000#3 ++ 0b0#1 ++ 0b0101#4) = .ok .compp := by decide
theorem test_decode_comph : decode true (0b000#3 ++ 0b0#1 ++ 0b0110#4) = .ok .comph := by decide
theorem test_decode_meas : decode true (0b000#3 ++ 0b0#1 ++ 0b0111#4) = .ok .meas := by decide
theorem test_decode_measS : decode false (0b000#3 ++ 0b1#1 ++ 0b0111#4) = .ok .measS := by decide

/-- V-E3, V-E4, V-E5: one illegal word for each reason. -/
theorem test_decode_illegal :
    decode true 0x23#8 = .error .reservedBits ∧ decode true 0x00#8 = .error .reservedOp ∧
    decode true 0x18#8 = .error .reservedOp ∧ decode true 0x11#8 = .error .splitNotAllowed ∧
    decode false 0x03#8 = .error .noSingleBurst ∧ decode false 0x07#8 = .error .noSingleBurst := by decide

/-! ### One step each, against the vectors -/

/-- V-I2. -/
theorem test_idchk_mismatch :
    view (·.idLast) (step ((answering [[0x58#8]]).withFetchWord 8 0x01)) = some (0x0202#16, some 0x58#8) := by decide +kernel

/-- V-I5: a short answer leaves MISMATCH and `ID_LAST` in place. -/
theorem test_idchk_short :
    view (·.idLast) (exec .idchk { mismatched with bus := { replies := [[]], requests := [] } }) =
      some (0x011E#16, some 0x58#8) := by decide +kernel

/-- V-D1, V-D2, V-D4. -/
theorem test_ldcal_decodes :
    view (·.cal) (step ((answering [tpw, [0x4B#8], hr]).withFetchWord 8 0x02)) = some (0x0004#16, some calW) := by
  decide +kernel

/-- Program P4's first `LDCAL`: short on burst 2, so the Store keeps its contents. -/
theorem test_ldcal_short :
    view (fun s => (s.cal, s.bus.requests.length)) (exec .ldcal (workedAnswering true true true [tpw, []])) =
      some (0x0108#16, some calW, 2) := by decide +kernel

/-- V-G8. -/
theorem test_ldraw_packs :
    view (·.raw) (step ((answering [dw]).withFetchWord 8 0x03)) = some (0x0008#16, some rawW) := by decide +kernel

/-- V-G7: refused without a transport read. -/
theorem test_ldraw_refused : view (·.bus.requests) (exec .ldraw mismatched) = some (0x031E#16, []) := by decide +kernel

/-- 41_raw_sample.md R87, its example. -/
theorem test_ldrawS_packs :
    view (·.raw) (step ((answering [[0x65#8, 0x5A#8, 0xC0#8], [0x7E#8, 0xED#8, 0x00#8], [0x75#8, 0x30#8]]).withFetchWord
      8 0x13)) = some (0x0008#16, some rawW) := by decide +kernel

/-- 41_raw_sample.md R87: short on burst 3, so nothing of bursts 1 and 2 is kept. -/
theorem test_ldrawS_short :
    view (·.raw) (exec .ldrawS
      (answering [[0x65#8, 0x5A#8, 0xC0#8], [0x7E#8, 0xED#8, 0x00#8], [0x75#8]])) = some (0x0100#16, none) := by
  decide +kernel

/-- V-T1. -/
theorem test_compt_worked :
    view (fun s => (s.tFine, s.tOut)) (exec .compt { worked true true false with tFine := none, tOut := none }) =
      some (0x001C#16, some 128422#32, some 2508#32) := by decide +kernel

/-- V-T8: overflow at `d`. -/
theorem test_compt_overflow : compT 1048575#20 0#16 32767#16 0#16 = ⟨-80#32, -2#32, true⟩ := by decide +kernel

/-- V-P1. -/
theorem test_compp_worked :
    view (·.pOut) (exec .compp (worked true true true)) = some (0x001C#16, some 25767233#64) := by decide +kernel

/-- V-G4. -/
theorem test_compp_stale : view (·.pOut) (exec .compp (worked true true false)) = some (0x050C#16, none) := by
  decide +kernel

/-- V-H1. -/
theorem test_comph_worked :
    view (·.hOut) (exec .comph (worked true true true)) = some (0x001C#16, some 56317#32) := by decide +kernel

/-- V-H11: H4, H5 taken unsigned. -/
theorem test_comph_unsigned : compH 30000#16 75#8 362#16 0#8 313#16 4080#16 30#8 128422#32 = ⟨0#32, false⟩ := by
  decide +kernel

/-- V-M1. -/
theorem test_meas_worked :
    view (fun s => (s.tFine, s.tOut, s.pOut, s.hOut)) (exec .meas (workedAnswering true false false [dw])) =
      some (0x001C#16, some 128422#32, some 2508#32, some 25767233#64, some 56317#32) := by decide +kernel

/-- V-M5. -/
theorem test_meas_short :
    view (fun s => (s.raw, s.hOut)) (exec .meas (workedAnswering true true true
      [[0x65#8, 0x5A#8, 0xC0#8, 0x7E#8, 0xED#8]])) = some (0x0104#16, some rawW, none) := by decide +kernel

/-- V-M2. -/
theorem test_measS_worked :
    view (fun s => (s.pOut, s.hOut)) (exec .measS (workedAnswering true false false
      [[0x65#8, 0x5A#8, 0xC0#8], [0x7E#8, 0xED#8, 0x00#8], [0x75#8, 0x30#8]])) =
      some (0x001C#16, some 25767233#64, some 56317#32) := by decide +kernel

/-- V-M4, in its split form: degenerate pressure, and humidity still runs. -/
theorem test_measS_degenerate :
    view (fun s => (s.pOut, s.hOut)) (exec .measS { workedAnswering true false false
      [[0x65#8, 0x5A#8, 0xC0#8], [0x7E#8, 0xED#8, 0x00#8], [0x75#8, 0x30#8]] with
        cal := some { calW with p1 := 0#16 } }) = some (0x003C#16, some 0#64, some 56317#32) := by decide +kernel

/-- V-A3, V-A4, V-A6, V-A8. -/
theorem test_primitives :
    divN 64 7 (-2) (by decide) false = (-3, false) ∧ divN 64 (-7) 2 (by decide) false = (-3, false) ∧
    divN 64 (-9223372036854775808) (-1) (by decide) false = (-9223372036854775808, true) ∧
    shlN 32 2079 20 false = (-2114977792, true) := by decide

/-- 10_state.md R38: the pattern a bus carries of a negative value. -/
theorem test_bus_pattern : (busPattern (signedValue (-2#16))).toNat = 0xFFFE := by decide

/-! ### Witnesses: for each statement with hypotheses, values that meet all of them -/

/-- V-A10: `wrap_32(2^31)`. -/
theorem test_witness_WrapIsTheUniqueCongruentValue :
    0 < 32 ∧ -2 ^ 31 ≤ (-2147483648 : Int) ∧ (-2147483648 : Int) < 2 ^ 31 ∧
    (2 ^ 32 : Int) ∣ -2147483648 - 2147483648 := by decide

/-- V-A9, an overflowing product, and a sum that does not overflow at the top of the range. -/
theorem test_witness_PrimitivesWrapAndFlagOverflow :
    (-2 ^ 31 ≤ (131071 : Int) ∧ (131071 : Int) < 2 ^ 31 ∧ (32767 : Int) < 2 ^ 31 ∧
      (131071 * 32767, mulN 32 131071 32767 false) ∈ [(131071 * 32767, mulN 32 131071 32767 false)]) ∧
    mulN 32 131071 32767 false = (-163839, true) ∧ addN 32 2147483646 1 false = (2147483647, false) := by decide

/-- V-A2. -/
theorem test_witness_ArithmeticShiftIsFloor : 4 < 32 ∧ -2 ^ 31 ≤ (-17 : Int) ∧ (-17 : Int) < 2 ^ 31 := by decide

/-- V-A6 for the overflowing clause, V-A4 for the other. -/
theorem test_witness_DivisionTruncatesTowardZero :
    ((-1 : Int) ≠ 0 ∧ -2 ^ 63 ≤ (-9223372036854775808 : Int) ∧ (-9223372036854775808 : Int) < 2 ^ 63 ∧
      (-9223372036854775808 : Int) = -2 ^ 63) ∧
    ((2 : Int) ≠ 0 ∧ -2 ^ 63 ≤ (-7 : Int) ∧ (-7 : Int) < 2 ^ 63 ∧ (-7 : Int) ≠ -2 ^ 63) := by decide

/-- E2, V-P2 (degenerate) and V-P7 (overflow), one for each side of the statement. -/
theorem test_witness_PressureOverflowsExactlyWhenAPrimitiveDoes :
    (pressureOf calW rawW 128422#32).ovf = false ∧ (pressureOf calW rawW 128422#32).degen = false ∧
    (pressureOf { calW with p1 := 0#16 } rawW 128422#32).ovf = false ∧
    (pressureOf { calW with p1 := 0#16 } rawW 128422#32).degen = true ∧
    (pressureOf { calW with p6 := -32768#16 } rawW 2147483647#32).ovf = true := by decide +kernel

/-- V-H1 and V-H8 (overflow). -/
theorem test_witness_HumidityOverflowsExactlyWhenAPrimitiveDoes :
    (humidityOf calW rawW 128422#32).ovf = false ∧
    (humidityOf { calW with h2 := 15390#16, h4 := 445#16, h5 := 47#16 } rawW 128422#32).ovf = true := by decide +kernel

theorem test_witness_StepRunsTheDecodedCommand :
    (about (.write 0x00#8 0x13#8) State.reset).host.pending = .write 0x00#8 0x13#8 :: [] ∧
    decode State.reset.params.singleBurst 0x13#8 = .ok .ldrawS := by decide

/-- V-E5. -/
theorem test_witness_IllegalWordOnlySetsErr :
    (about (.write 0x00#8 0x23#8) State.reset).host.pending = .write 0x00#8 0x23#8 :: [] ∧
    legal State.reset.params.singleBurst 0x23#8 = false := by decide

/-- Every register holding `⊥`, every register holding a value, and the ends of the unmapped ranges. -/
theorem test_witness_HostRegisterMap :
    (State.reset.tOut = none ∧ State.reset.pOut = none ∧ State.reset.hOut = none ∧ State.reset.tFine = none ∧
      State.reset.raw = none ∧ State.reset.idLast = none ∧ State.reset.cal = none) ∧
    (let s := { mismatched with pOut := some 25767233#64, hOut := some 56317#32 };
      s.tOut = some 2508#32 ∧ s.pOut = some 25767233#64 ∧ s.hOut = some 56317#32 ∧ s.tFine = some 128422#32 ∧
      s.raw = some rawW ∧ s.idLast = some 0x58#8 ∧ s.cal = some calW) ∧
    hostRead State.reset 0x10#8 = .error .hostReadBottom ∧ hostRead State.reset 0x21#8 = .error .hostReadBottom ∧
    hostRead mismatched 0x21#8 = .ok ⟨8, 30⟩ ∧ hostRead mismatched 0x0A#8 = .error .hostReadUnmapped ∧
    hostRead mismatched 0x0F#8 = .error .hostReadUnmapped ∧ hostRead mismatched 0x22#8 = .error .hostReadUnmapped ∧
    hostRead mismatched 0xFF#8 = .error .hostReadUnmapped := by decide

theorem test_witness_HostAccessesTouchNoRegister :
    ((about (.read 0x01#8) State.reset).host.pending = .read 0x01#8 :: [] ∧
      hostRead (about (.read 0x01#8) State.reset) 0x01#8 = .ok ⟨16, 0⟩) ∧
    ((about (.read 0x02#8) State.reset).host.pending = .read 0x02#8 :: [] ∧
      hostRead (about (.read 0x02#8) State.reset) 0x02#8 = .error .hostReadBottom) ∧
    ((about (.write 0x01#8 0xFF#8) State.reset).host.pending = .write 0x01#8 0xFF#8 :: [] ∧ 0x01#8 ≠ 0x00#8) := by decide

/-- `INIT` with a sensor that answers the right byte, and with one that does not. -/
theorem test_witness_SequenceStopsAtTheFirstError :
    (∃ t, runWord 0x01#8 { answering [[0x60#8]] with host := { pending := [], received := none } } = .next t ∧
      t.status.err = .ok) ∧
    (∃ t, runWord 0x01#8 { answering [[0x58#8]] with host := { pending := [], received := none } } = .next t ∧
      t.status.err = .nodev) ∧
    (about (.sequence [0x01#8, 0x02#8]) (answering [[0x60#8]])).host.pending = .sequence (0x01#8 :: [0x02#8]) :: [] :=
  ⟨⟨_, rfl, by decide⟩, ⟨_, rfl, by decide⟩, rfl⟩

theorem test_witness_AssemblerLinesAndPseudoInstructions :
    "MeaS.s ; now".toList.map Char.toUpper = "meas.S ; Now".toList.map Char.toUpper := by decide

/-- A state with every flag set and a value in every register has the whole invariant. -/
theorem test_worked_coherent : Coherent { worked true true true with hOut := some 56317#32, pOut := some 0#64 } := by
  refine ⟨?_, ?_, ?_, ?_, ?_, ?_⟩
  · unfold FlagsBacked; decide
  · intro _
    exact ⟨calW, rawW, rfl, rfl, by decide +kernel, .inl (by decide +kernel)⟩
  · exact rfl
  · intro c hc
    cases hc
    unfold TwelveBit
    decide
  · intro h hh
    cases hh
    decide
  · unfold FieldsOfLastCommand; decide

theorem test_witness_StepKeepsFlagsBacked :
    FlagsBacked (about (.write 0x00#8 0x02#8) (worked true true true)) ∧
    ∃ t, step (about (.write 0x00#8 0x02#8) (worked true true true)) = .next t :=
  ⟨by unfold FlagsBacked; decide, _, rfl⟩

theorem test_witness_StepKeepsFineTemperatureCurrent :
    FineCurrent (about (.write 0x00#8 0x03#8) (worked true true true)) ∧
    ∃ t, step (about (.write 0x00#8 0x03#8) (worked true true true)) = .next t :=
  ⟨fun _ => ⟨calW, rawW, rfl, rfl, by decide +kernel, .inl (by decide +kernel)⟩, _, rfl⟩

theorem test_witness_StepKeepsCoherent :
    ∃ s t, Coherent s ∧ step s = .next t ∧ s.status.ftValid = true :=
  ⟨about (.write 0x00#8 0x02#8) { worked true true true with hOut := some 56317#32, pOut := some 0#64 }, _,
    test_worked_coherent, rfl, rfl⟩

/-- Two steps from reset: the Host loads the calibration and measures (V-M1). -/
theorem test_witness_ReachableStatesAreCoherent :
    ∃ t, Host.Core.run Sys2Proof.core 2 { State.resetWith Params.default with
      bus := { replies := [tpw, [0x4B#8], hr, dw], requests := [] }
      host := { pending := [.write 0x00#8 0x02#8, .write 0x00#8 0x07#8], received := none } } = .next t ∧
      statusWord t.status = 0x001C#16 := by
  refine ⟨_, rfl, ?_⟩
  decide +kernel

/-- A state whose next command reads every register the checks gate. -/
theorem test_witness_BackedStatesNeverFault :
    FlagsBacked (about (.write 0x00#8 0x06#8) (worked true true true)) := by unfold FlagsBacked; decide

/-- V-M4: `DEGEN` = 1 after a `MEAS` whose calibration has P1 = 0. -/
theorem test_witness_PerCommandFieldsAreFresh :
    view (·.status.degen) (exec .meas { workedAnswering true false false [dw] with
      cal := some { calW with p1 := 0#16 } }) = some (0x003C#16, true) := by decide +kernel

/-- A reply one byte short, one of the exact length, and one too long. -/
theorem test_witness_BurstUsesFirstBytesOrNone :
    ([0x60#8] : List Byte).length < 2 ∧ 2 ≤ ([0x60#8, 0x61#8] : List Byte).length ∧
    takeBurst 2 [0x60#8, 0x61#8, 0x62#8] = some #v[0x60#8, 0x61#8] := by decide

theorem test_witness_BurstsAreThoseOfTheTable :
    view (·.bus.requests) (exec .ldraw (answering [dw])) = some (0x0008#16, [⟨0x76#7, 0xF7, 8⟩]) := by decide +kernel

/-- The first burst of `IDCHK` short, and the last burst of `LDCAL` and of `MEAS.S` short by one byte. -/
theorem test_witness_ShortReadStopsTheCommand :
    (ReachesTransport .idchk (answering [[]]) ∧
      (burstsOf Params.default .idchk)[0]? = some ⟨0x76#7, 0xD0, 1⟩ ∧ (coming (answering [[]]) 0).length < 1) ∧
    (ReachesTransport .ldcal (answering [tpw, [0x4B#8], hr.take 6]) ∧
      (burstsOf Params.default .ldcal)[2]? = some ⟨0x76#7, 0xE1, 7⟩ ∧
      (coming (answering [tpw, [0x4B#8], hr.take 6]) 0).length = 24 ∧
      (coming (answering [tpw, [0x4B#8], hr.take 6]) 1).length = 1 ∧
      (coming (answering [tpw, [0x4B#8], hr.take 6]) 2).length = 6) ∧
    (ReachesTransport .measS (workedAnswering true false false [dw, dw, [0x75#8]]) ∧
      (burstsOf Params.default .measS)[2]? = some ⟨0x76#7, 0xFD, 2⟩ ∧
      (coming (workedAnswering true false false [dw, dw, [0x75#8]]) 1).length = 8 ∧
      (coming (workedAnswering true false false [dw, dw, [0x75#8]]) 2).length = 1) := by
  unfold ReachesTransport
  decide

theorem test_witness_StepOnlyReadsTheTransport :
    ∃ t, step (about (.write 0x00#8 0x01#8) (answering [[0x60#8]])) = .next t ∧
      t.bus.replies = [] ∧ t.bus.requests = [⟨0x76#7, 0xD0, 1⟩] := ⟨_, rfl, by decide⟩

/-- The last place of a burst, and the two sides of the sign bit (V-D8, 40_calibration.md R74). -/
theorem test_witness_WordsAreLittleEndian :
    0 + 1 < 2 ∧ (u16le #v[0x70#8, 0x6B#8] 0).toNat = 27504 ∧ (s16le #v[0xFF#8, 0x7F#8] 0).toInt = 32767 ∧
    (s16le #v[0x00#8, 0x80#8] 0).toInt = -32768 ∧ (s16le #v[0x18#8, 0xFC#8] 0).toInt = -1000 := by decide

theorem test_witness_EachConstantFromItsBytes : 0 < 12 ∧ 11 < 12 := by decide

theorem test_witness_RawPackingIsMsbFirst : (0xCF#8).toNat / 16 = (0xC0#8).toNat / 16 := by decide

theorem test_witness_IdchkRecordsTheIdentity :
    coming (answering [[]]) 0 = [] ∧ coming (answering [[0x60#8, 0x61#8]]) 0 = 0x60#8 :: [0x61#8] ∧
    0x60#8 = Params.default.idExpected ∧ coming (answering [[0x58#8]]) 0 = 0x58#8 :: [] ∧
    0x58#8 ≠ Params.default.idExpected := by decide

theorem test_witness_LdcalLoadsTheWholeStore :
    ∃ tp h1 h, takeBurst 24 (coming (answering [tpw, [0x4B#8], hr]) 0) = some tp ∧
      takeBurst 1 (coming (answering [tpw, [0x4B#8], hr]) 1) = some h1 ∧
      takeBurst 7 (coming (answering [tpw, [0x4B#8], hr]) 2) = some h ∧ decodeCal true tp h1 h = calW :=
  ⟨_, _, _, rfl, rfl, rfl, by decide +kernel⟩

/-- Each of the three bursts one byte short, after full ones. -/
theorem test_witness_LdcalShortReadLeavesTheStore :
    (coming (answering [tpw.take 23]) 0).length = 23 ∧
    (24 ≤ (coming (answering [tpw, []]) 0).length ∧ (coming (answering [tpw, []]) 1).length = 0) ∧
    (24 ≤ (coming (answering [tpw, [0x4B#8], hr.take 6]) 0).length ∧
      1 ≤ (coming (answering [tpw, [0x4B#8], hr.take 6]) 1).length ∧
      (coming (answering [tpw, [0x4B#8], hr.take 6]) 2).length = 6) := by decide

theorem test_witness_LdrawReadsOneBurst :
    mismatched.status.idst = .mismatch ∧
    ((answering [dw.take 7]).status.idst ≠ .mismatch ∧ (coming (answering [dw.take 7]) 0).length = 7) ∧
    ((answering [dw]).status.idst ≠ .mismatch ∧
      coming (answering [dw]) 0 =
        0x65#8 :: 0x5A#8 :: 0xC0#8 :: 0x7E#8 :: 0xED#8 :: 0x00#8 :: 0x75#8 :: 0x30#8 :: []) := by decide

theorem test_witness_LdrawSplitReadsThreeBursts :
    mismatched.status.idst = .mismatch ∧ (answering [dw.take 2]).status.idst ≠ .mismatch ∧
    (coming (answering [dw.take 2]) 0).length = 2 ∧
    (3 ≤ (coming (answering [dw, dw.take 2]) 0).length ∧ (coming (answering [dw, dw.take 2]) 1).length = 2) ∧
    (3 ≤ (coming (answering [dw, dw, dw.take 1]) 0).length ∧ 3 ≤ (coming (answering [dw, dw, dw.take 1]) 1).length ∧
      (coming (answering [dw, dw, dw.take 1]) 2).length = 1) ∧
    (let s := answering [[0x65#8, 0x5A#8, 0xC0#8], [0x7E#8, 0xED#8, 0x00#8], [0x75#8, 0x30#8]];
      coming s 0 = 0x65#8 :: 0x5A#8 :: 0xC0#8 :: [] ∧ coming s 1 = 0x7E#8 :: 0xED#8 :: 0x00#8 :: [] ∧
      coming s 2 = 0x75#8 :: 0x30#8 :: []) := by decide

/-- V-G6, V-G1, V-G3, V-G4 and a command that passes, one for each branch. -/
theorem test_witness_CompensationChecksInOrder :
    mismatched.status.idst = .mismatch ∧ (worked false false false).status.calValid = false ∧
    (worked true false false).status.rawValid = false ∧
    (Instr.compp ≠ .compt ∧ (worked true true false).status.ftValid = false) ∧
    FlagsBacked (worked true true true) ∧ Instr.comph ∈ [.compt, .compp, .comph] := by
  unfold FlagsBacked
  decide

theorem test_witness_ComptComputesTemperature :
    ReadyForTemperature (worked true true false) calW rawW ∧
    Computed (worked true true false) (compT rawW.t calW.t1 calW.t2 calW.t3).ovf :=
  ⟨by unfold ReadyForTemperature; decide, .inl rfl⟩

theorem test_witness_ComppComputesPressure :
    ReadyForFine (worked true true true) calW rawW 128422#32 ∧ Computed (worked true true true) false :=
  ⟨by unfold ReadyForFine; decide, .inr rfl⟩

theorem test_witness_ComphComputesHumidity :
    ReadyForFine (worked true true true) calW rawW 128422#32 ∧ Computed (worked true true true) true :=
  ⟨by unfold ReadyForFine; decide, .inl rfl⟩

/-- The worked state with P1 = 0 (V-P2). -/
theorem test_witness_DegenerateCalibrationGivesZero :
    let s := { worked true true true with cal := some { calW with p1 := 0#16 } }
    ReadyForFine s { calW with p1 := 0#16 } rawW 128422#32 ∧
    (pressureOf { calW with p1 := 0#16 } rawW 128422#32).degen = true ∧ s.params.ovfPolicy = .wrap := by
  refine ⟨by unfold ReadyForFine; decide, by decide +kernel, rfl⟩

/-- V-T8, V-P7 and V-H8 under `anyvalue`, one for each command. -/
theorem test_witness_OverflowUnderAnyvalueDraws :
    let c := { calW with t1 := 0#16, t2 := 32767#16, t3 := 0#16, p6 := -32768#16, h2 := 15390#16, h4 := 445#16, h5 := 47#16 }
    let r := { rawW with t := 1048575#20 }
    let s := { worked true true true with
      params := { Params.default with ovfPolicy := .anyvalue }, cal := some c, raw := some r }
    s.params.ovfPolicy = .anyvalue ∧ ReadyForTemperature s c r ∧ (temperatureOf c r).ovf = true ∧
    ReadyForFine { s with tFine := some 2147483647#32 } c r 2147483647#32 ∧
    (pressureOf c r 2147483647#32).ovf = true ∧
    ReadyForFine s c r 128422#32 ∧ (humidityOf c r 128422#32).ovf = true := by
  refine ⟨rfl, by unfold ReadyForTemperature; decide, by decide +kernel, by unfold ReadyForFine; decide,
    by decide +kernel, by unfold ReadyForFine; decide, by decide +kernel⟩

theorem test_witness_HumidityOutputIsClamped :
    view (fun s => (s.hOut, s.status.err)) (exec .comph (worked true true true)) =
      some (0x001C#16, some 56317#32, .ok) := by decide +kernel

theorem test_witness_MeasReadsAndComputesAll :
    (worked false false false).status.calValid = false ∧
    (let s := workedAnswering true false false [dw.take 7];
      ReadyToMeasure s calW ∧ (coming s 0).length = 7) ∧
    (let s := workedAnswering true false false [dw];
      ReadyToMeasure s calW ∧ Computed s false ∧ Computed s true ∧
      coming s 0 = 0x65#8 :: 0x5A#8 :: 0xC0#8 :: 0x7E#8 :: 0xED#8 :: 0x00#8 :: 0x75#8 :: 0x30#8 :: []) := by
  unfold ReadyToMeasure Computed
  decide

theorem test_witness_MeasSplitReadsAndComputesAll :
    mismatched.status.idst = .mismatch ∧
    (let s := workedAnswering true false false [[0x65#8, 0x5A#8, 0xC0#8], [0x7E#8, 0xED#8, 0x00#8], [0x75#8, 0x30#8]];
      ReadyToMeasure s calW ∧ Computed s true ∧ coming s 0 = 0x65#8 :: 0x5A#8 :: 0xC0#8 :: [] ∧
      coming s 1 = 0x7E#8 :: 0xED#8 :: 0x00#8 :: [] ∧ coming s 2 = 0x75#8 :: 0x30#8 :: []) ∧
    (let s := workedAnswering true false false [dw.take 2];
      ReadyToMeasure s calW ∧ (coming s 0).length = 2) ∧
    (let s := workedAnswering true false false [dw, dw.take 2];
      ReadyToMeasure s calW ∧ 3 ≤ (coming s 0).length ∧ (coming s 1).length = 2) ∧
    (let s := workedAnswering true false false [dw, dw, dw.take 1];
      ReadyToMeasure s calW ∧ 3 ≤ (coming s 1).length ∧ (coming s 2).length = 1) := by
  unfold ReadyToMeasure Computed
  decide

/-- Full answers for `MEAS` and for `MEAS.S`, and a state without a calibration. -/
theorem test_witness_MeasEqualsTheFourCommands :
    (let s := workedAnswering true false false [dw];
      ReadyToMeasure s calW ∧ (burstsOf s.params .meas).length = 1 ∧ 8 ≤ (coming s 0).length) ∧
    (let s := workedAnswering true false false [dw, dw, dw];
      ReadyToMeasure s calW ∧ (burstsOf s.params .measS).length = 3 ∧ 3 ≤ (coming s 0).length ∧
      3 ≤ (coming s 1).length ∧ 2 ≤ (coming s 2).length) ∧
    ((worked false false false).status.idst ≠ .mismatch ∧ (worked false false false).status.calValid = false) := by
  unfold ReadyToMeasure
  decide

theorem test_witness_CommandsLeaveTheRestUnchanged :
    (∃ t, exec .idchk (answering [[0x60#8]]) = .next t) ∧ (∃ t, exec .ldcal (worked true true true) = .next t) ∧
    (∃ t, exec .ldraw (worked true true true) = .next t) ∧ (∃ t, exec .ldrawS (worked true true true) = .next t) ∧
    (∃ t, exec .compt (worked true false true) = .next t) ∧ (∃ t, exec .compp (worked true true false) = .next t) ∧
    (∃ t, exec .comph (worked true true false) = .next t) ∧ (∃ t, exec .meas (worked false true true) = .next t) ∧
    (∃ t, exec .measS (worked false true true) = .next t) :=
  ⟨⟨_, rfl⟩, ⟨_, rfl⟩, ⟨_, rfl⟩, ⟨_, rfl⟩, ⟨_, rfl⟩, ⟨_, rfl⟩, ⟨_, rfl⟩, ⟨_, rfl⟩, ⟨_, rfl⟩⟩

/-- V-I2, an error that writes `ID_LAST`, and V-G4, one that writes nothing. -/
theorem test_witness_ErrorsWriteNoDataRegister :
    (∃ t, exec .idchk (answering [[0x58#8]]) = .next t ∧ t.status.err = .nodev) ∧
    (∃ t, exec .compp (worked true true false) = .next t ∧ t.status.err = .staleft) :=
  ⟨⟨_, rfl, by decide⟩, ⟨_, rfl, by decide⟩⟩

theorem test_witness_MismatchRefusesEveryMeasurement :
    mismatched.status.idst = .mismatch ∧ Instr.measS ∉ [.idchk, .ldcal] := by decide

/-- V-I4. -/
theorem test_witness_OnlyIdchkLeavesMismatch :
    ∃ t, step (about (.write 0x00#8 0x01#8) { mismatched with bus := { replies := [[0x60#8]], requests := [] } }) =
      .next t ∧ mismatched.status.idst = .mismatch ∧ t.status.idst ≠ .mismatch := ⟨_, rfl, rfl, by decide⟩

theorem test_witness_OnlyLdcalWritesTheStore :
    ∃ t, step (about (.write 0x00#8 0x02#8) (answering [tpw, [0x4B#8], hr])) = .next t ∧
      t.cal ≠ (answering [tpw, [0x4B#8], hr]).cal := ⟨_, rfl, by decide +kernel⟩

/-- A full raw read and a short one of `MEAS`; the step of `COMPT` that raises `FT_VALID`; `COMPH` before it. -/
theorem test_witness_NewCycleNeedsTemperatureFirst :
    (ReachesTransport .ldraw (workedAnswering true true true [dw]) ∧
      ∃ t, exec .ldraw (workedAnswering true true true [dw]) = .next t) ∧
    (ReachesTransport .meas (workedAnswering true true true [dw.take 7]) ∧
      ∃ t, exec .meas (workedAnswering true true true [dw.take 7]) = .next t ∧ t.status.err ≠ .ok) ∧
    ((worked true true false).status.ftValid = false ∧
      ∃ t, step (about (.write 0x00#8 0x04#8) (worked true true false)) = .next t ∧ t.status.ftValid = true) ∧
    ((worked true true false).status.idst ≠ .mismatch ∧ (worked true true false).status.calValid = true ∧
      (worked true true false).status.rawValid = true ∧ Instr.comph ∈ [.compp, .comph]) := by
  refine ⟨⟨by unfold ReachesTransport; decide, _, rfl⟩, ⟨by unfold ReachesTransport; decide, _, rfl, by decide⟩,
    ⟨rfl, _, rfl, by decide⟩, by decide⟩

end Sys2Proof.Tests
end

/-! # Scope (00_scope.md): the arithmetic primitives, the compensation functions' indicators, and the model's fault -/

namespace Sys2Proof.Proofs

open Sys2Proof.Machine Sys2Proof.Safety

/-! ### `wrap` and `narrow` (00_scope.md R10 to R12) -/

/-- `wrap` depends only on the residue modulo `2^N`. -/
theorem wrap_eq_of_dvd_sub {n : Nat} {x y : Int} (h : (2 ^ n : Int) ∣ y - x) : wrap n x = wrap n y := by
  have hmod : x % ((2 ^ n : Nat) : Int) = y % ((2 ^ n : Nat) : Int) := by
    push_cast
    exact Int.modEq_iff_dvd.2 h
  unfold wrap
  rw [← Int.emod_bmod x, hmod, Int.emod_bmod]

/-- Settles O1: `wrap` lands in the range on a congruent value, and it fixes every value of the range. -/
theorem wrapIsTheUniqueCongruentValue : Obligations.WrapIsTheUniqueCongruentValue := by
  unfold Obligations.WrapIsTheUniqueCongruentValue
  intro n x hn
  obtain ⟨lo, hi⟩ := wrap_mem n x hn
  refine ⟨⟨lo, hi, dvd_wrap_sub n x⟩, fun y ylo yhi hdvd => ?_⟩
  rw [wrap_eq_of_dvd_sub hdvd, wrap_of_mem ylo yhi hn]

theorem inRange_eq_false_iff (n : Nat) (x : Int) : inRange n x = false ↔ x < -2 ^ (n - 1) ∨ 2 ^ (n - 1) ≤ x := by
  rw [← Bool.not_eq_true, inRange_iff, not_and_or, not_le, not_lt]

/-- The indicator after a primitive is set exactly when it was set before or the exact result is out of range. -/
theorem narrow_snd_eq_true_iff (n : Nat) (x : Int) (o : Bool) :
    (narrow n x o).2 = true ↔ o = true ∨ x < -2 ^ (n - 1) ∨ 2 ^ (n - 1) ≤ x := by
  rw [narrow_snd, Bool.or_eq_true, Bool.not_eq_true', inRange_eq_false_iff]

/-- The indicator after a primitive is clear exactly when it was clear before and the exact result fits. -/
theorem narrow_snd_eq_false_iff (n : Nat) (x : Int) (o : Bool) :
    (narrow n x o).2 = false ↔ o = false ∧ Fits n x := by
  rw [narrow_snd, Bool.or_eq_false_iff, Bool.not_eq_false', inRange_iff, Fits]

theorem narrow_of_fits {n : Nat} {x : Int} {o : Bool} (hn : 0 < n) (fits : Fits n x) : narrow n x o = (x, o) :=
  narrow_of_inRange hn ((inRange_iff n x).2 fits)

/-- A primitive that leaves the indicator clear gives its exact result. -/
theorem narrow_fst_of_clear {n : Nat} {x : Int} {o : Bool} (hn : 0 < n) (clear : (narrow n x o).2 = false) :
    (narrow n x o).1 = x := by
  rw [narrow_of_fits hn ((narrow_snd_eq_false_iff n x o).1 clear).2]

/-- Settles O2: each of the four primitives is `narrow` of its exact result. -/
theorem primitivesWrapAndFlagOverflow : Obligations.PrimitivesWrapAndFlagOverflow := by
  unfold Obligations.PrimitivesWrapAndFlagOverflow
  intro n a b k o hn _ _ _ _ _ x result hmem
  have hresult : result = narrow n x o := by
    simp only [List.mem_cons, List.not_mem_nil, or_false, Prod.mk.injEq] at hmem
    rcases hmem with ⟨rfl, rfl⟩ | ⟨rfl, rfl⟩ | ⟨rfl, rfl⟩ | ⟨rfl, rfl⟩ <;> rfl
  subst hresult
  exact ⟨narrow_fst n x o, narrow_snd_eq_true_iff n x o, narrow_fst_of_clear (by omega)⟩

/-! ### The right shift (00_scope.md R13) -/

theorem asrN_mul_le (a : Int) (k : Nat) : asrN a k * 2 ^ k ≤ a := Int.ediv_mul_le a (by positivity)

theorem lt_asrN_succ_mul (a : Int) (k : Nat) : a < (asrN a k + 1) * 2 ^ k :=
  Int.lt_ediv_add_one_mul_self a (by positivity)

/-- The right shift stays in every range `-M ≤ a < M` of its operand. -/
theorem asrN_mem {a M : Int} (k : Nat) (lo : -M ≤ a) (hi : a < M) : -M ≤ asrN a k ∧ asrN a k < M := by
  have hpow : (1 : Int) ≤ 2 ^ k := one_le_pow₀ (by norm_num)
  have hM : 0 < M := by omega
  constructor
  · exact (Int.le_ediv_iff_mul_le (by positivity)).2 (by nlinarith)
  · exact (Int.ediv_lt_iff_lt_mul (by positivity)).2 (by nlinarith)

/-- Settles O3: floor division by a positive power of two. -/
theorem arithmeticShiftIsFloor : Obligations.ArithmeticShiftIsFloor := by
  unfold Obligations.ArithmeticShiftIsFloor
  refine ⟨fun n a k _ _ lo hi => ?_, by decide, by decide⟩
  obtain ⟨qlo, qhi⟩ := asrN_mem k lo hi
  exact ⟨asrN_mul_le a k, lt_asrN_succ_mul a k, qlo, qhi⟩

/-! ### Division (00_scope.md R14) -/

/-- The truncated quotient of two values of a range `-M ≤ a < M` stays in it, except that of `-M` by `-1`. -/
theorem tdiv_mem {a b M : Int} (nonzero : b ≠ 0) (lo : -M ≤ a) (hi : a < M) (h : ¬(a = -M ∧ b = -1)) :
    -M ≤ a.tdiv b ∧ a.tdiv b < M := by
  by_cases one : b = 1
  · subst one
    rw [Int.tdiv_one]
    exact ⟨lo, hi⟩
  by_cases minusOne : b = -1
  · subst minusOne
    rw [Int.tdiv_neg, Int.tdiv_one]
    omega
  · have hM : 0 < M.natAbs := by omega
    have hb : 2 ≤ b.natAbs := by omega
    have hlt : (a.tdiv b).natAbs < M.natAbs := by
      rw [Int.natAbs_tdiv]
      exact Nat.div_lt_of_lt_mul (by nlinarith [show a.natAbs ≤ M.natAbs by omega])
    omega

/-- What truncated division leaves over: the remainder. -/
theorem sub_tdiv_mul (a b : Int) : a - a.tdiv b * b = a.tmod b := by rw [Int.tmod_def, mul_comm]

theorem abs_tmod_lt (a : Int) {b : Int} (nonzero : b ≠ 0) : |a.tmod b| < |b| := by
  rw [Int.abs_eq_natAbs, Int.abs_eq_natAbs, Int.natAbs_tmod]
  exact_mod_cast Nat.mod_lt _ (Int.natAbs_pos.2 nonzero)

theorem tmod_nonpos {a : Int} (b : Int) (h : a ≤ 0) : a.tmod b ≤ 0 := by
  have := Int.tmod_nonneg b (Int.neg_nonneg_of_nonpos h)
  rw [Int.neg_tmod] at this
  omega

/-- The one division that overflows: `-2^(N-1)` by `-1`. -/
theorem divN_min_neg_one (n : Nat) (hn : 0 < n) (nonzero : (-1 : Int) ≠ 0) (o : Bool) :
    divN n (-2 ^ (n - 1)) (-1) nonzero o = (-2 ^ (n - 1), true) := by
  have hq : (-2 ^ (n - 1) : Int).tdiv (-1) = 2 ^ (n - 1) := by rw [Int.tdiv_neg, Int.tdiv_one, neg_neg]
  have hpos : (0 : Int) < 2 ^ (n - 1) := by positivity
  have hwrap : wrap n (2 ^ (n - 1)) = -2 ^ (n - 1) := by
    rw [wrap_eq_of_dvd_sub (y := -2 ^ (n - 1)) ⟨-1, by rw [two_pow_pred n hn]; ring⟩]
    exact wrap_of_mem le_rfl (by omega) hn
  have hset : (narrow n (2 ^ (n - 1)) o).2 = true := (narrow_snd_eq_true_iff _ _ _).2 (.inr (.inr le_rfl))
  rw [divN, hq]
  exact Prod.ext hwrap hset

/-- Settles O4: the quotient fits in every case but one, and what is left over is the truncated remainder. -/
theorem divisionTruncatesTowardZero : Obligations.DivisionTruncatesTowardZero := by
  unfold Obligations.DivisionTruncatesTowardZero
  refine ⟨fun n a b nonzero o hn alo ahi _ _ => ?_, by decide⟩
  have hpos : 0 < n := by omega
  dsimp only
  split
  case isTrue h =>
    obtain ⟨rfl, rfl⟩ := h
    exact divN_min_neg_one n hpos nonzero o
  case isFalse h =>
    have quotient : divN n a b nonzero o = (a.tdiv b, o) := narrow_of_fits hpos (tdiv_mem nonzero alo ahi h)
    simp only [quotient, sub_tdiv_mul, true_and]
    exact ⟨abs_tmod_lt a nonzero, Int.tmod_nonneg b, tmod_nonpos b⟩

/-! ### Calculations: a compensation function as the sequence of its primitives (00_scope.md R15) -/

/-- A calculation: a result, or one primitive, given by its exact result `x`, and what follows from the primitive's
value. -/
inductive Calc (α : Type) where
  | done (result : α)
  | prim (x : Int) (rest : Int → Calc α)

namespace Calc

variable {α : Type}

/-- The calculation at width `n`: each primitive narrows and hands the indicator on (00_scope.md R11, R15). -/
def run (n : Nat) : Calc α → Bool → α × Bool
  | done r, o => (r, o)
  | prim x rest, o => (rest (narrow n x o).1).run n (narrow n x o).2

/-- The result over unbounded integers. -/
def exactResult : Calc α → α
  | done r => r
  | prim x rest => (rest x).exactResult

/-- The exact results of the primitives, over unbounded integers. -/
def exactResults : Calc α → List Int
  | done _ => []
  | prim x rest => x :: (rest x).exactResults

/-- Every primitive's exact result lies in the `sN` range. -/
def AllFit (n : Nat) (c : Calc α) : Prop := ∀ x ∈ c.exactResults, Fits n x

/-- A calculation all of whose exact results fit gives the exact result and leaves the indicator alone. -/
theorem run_of_allFit {n : Nat} (hn : 0 < n) (c : Calc α) (o : Bool) (fit : c.AllFit n) :
    c.run n o = (c.exactResult, o) := by
  induction c with
  | done r => rfl
  | prim x rest ih =>
    obtain ⟨first, others⟩ := List.forall_mem_cons.1 fit
    rw [run, narrow_of_fits hn first]
    exact ih x others

/-- The indicator ends clear exactly when it started clear and every exact result fits. -/
theorem run_snd_eq_false_iff {n : Nat} (hn : 0 < n) (c : Calc α) (o : Bool) :
    (c.run n o).2 = false ↔ o = false ∧ c.AllFit n := by
  constructor
  · induction c generalizing o with
    | done r => exact fun h => ⟨h, List.forall_mem_nil _⟩
    | prim x rest ih =>
      intro h
      obtain ⟨clear, others⟩ := ih _ _ h
      obtain ⟨start, first⟩ := (narrow_snd_eq_false_iff n x o).1 clear
      rw [narrow_of_fits hn first] at others
      exact ⟨start, List.forall_mem_cons.2 ⟨first, others⟩⟩
  · rintro ⟨rfl, fit⟩
    rw [run_of_allFit hn c false fit]

end Calc

/-! ### `CompH` (42_compensation.md R95) -/

/-- `CompH`'s primitives in their order. -/
def humidityCalc (rawH : BitVec 16) (h1 : BitVec 8) (h2 : BitVec 16) (h3 : BitVec 8) (h4 h5 : BitVec 16)
    (h6 : BitVec 8) (fine : BitVec 32) : Calc Int :=
  .prim (fine.toInt - 76800) fun v0 =>
  .prim (rawH.toNat * 2 ^ 14) fun x1 =>
  .prim (h4.toInt * 2 ^ 20) fun x2 =>
  .prim (h5.toInt * v0) fun x3 =>
  .prim (x1 - x2) fun x12 =>
  .prim (x12 - x3) fun x123 =>
  .prim (x123 + 16384) fun xr =>
  .prim (v0 * h6.toInt) fun m6 =>
  .prim (v0 * h3.toNat) fun m3 =>
  .prim (asrN m3 11 + 32768) fun y2 =>
  .prim (asrN m6 10 * y2) fun m12 =>
  .prim (asrN m12 10 + 2097152) fun y4 =>
  .prim (y4 * h2.toInt) fun m2 =>
  .prim (m2 + 8192) fun yr =>
  .prim (asrN xr 15 * asrN yr 14) fun v1 =>
  .prim (asrN v1 15 * asrN v1 15) fun sq =>
  .prim (asrN sq 7 * h1.toNat) fun m1 =>
  .prim (v1 - asrN m1 4) fun v2 =>
  .done v2

/-- The number `H_OUT` receives for `v2`: clamped and shifted. -/
def humidityOutput (v2 : Int) : Int := asrN (clamp v2 0 419430400) 12

theorem compH_eq_run (rawH : BitVec 16) (h1 : BitVec 8) (h2 : BitVec 16) (h3 : BitVec 8) (h4 h5 : BitVec 16)
    (h6 : BitVec 8) (fine : BitVec 32) :
    compH rawH h1 h2 h3 h4 h5 h6 fine =
      let r := (humidityCalc rawH h1 h2 h3 h4 h5 h6 fine).run 32 false
      { h := BitVec.ofInt 32 (humidityOutput r.1), ovf := r.2 } := by
  simp only [compH, humidityCalc, Calc.run, addN, subN, mulN, shlN, narrow, humidityOutput]

theorem clamp_eq_min_max {v lo hi : Int} (h : lo ≤ hi) : clamp v lo hi = min (max v lo) hi := by
  unfold clamp
  split
  · omega
  · split <;> omega

theorem toNat_ofInt_humidityOutput (v2 : Int) :
    ((BitVec.ofInt 32 (humidityOutput v2)).toNat : Int) = min (max v2 0) 419430400 / 2 ^ 12 := by
  rw [humidityOutput, clamp_eq_min_max (by decide), asrN, BitVec.toNat_ofInt]
  omega

/-- Settles O10: `CompH` is the run of its calculation, whose exact results are the statement's list. -/
theorem humidityOverflowsExactlyWhenAPrimitiveDoes : Obligations.HumidityOverflowsExactlyWhenAPrimitiveDoes := by
  unfold Obligations.HumidityOverflowsExactlyWhenAPrimitiveDoes
  intro rawH h1 h2 h3 h4 h5 h6 fine
  have clear_iff : (compH rawH h1 h2 h3 h4 h5 h6 fine).ovf = false ↔
      (humidityCalc rawH h1 h2 h3 h4 h5 h6 fine).AllFit 32 := by
    rw [compH_eq_run, Calc.run_snd_eq_false_iff (by decide), eq_self_iff_true, true_and]
  refine ⟨clear_iff, fun clear => ?_⟩
  rw [compH_eq_run, Calc.run_of_allFit (by decide) _ _ (clear_iff.1 clear)]
  exact toNat_ofInt_humidityOutput _

/-! ### `CompP` (42_compensation.md R93) -/

/-- `CompP`'s primitives down to its guard, with the result `(var2a, var1c)`. -/
def pressureTermsCalc (p1 p2 p3 p4 p5 p6 : BitVec 16) (fine : BitVec 32) : Calc (Int × Int) :=
  .prim (fine.toInt - 128000) fun var1a =>
  .prim (var1a * var1a) fun sq =>
  .prim (sq * p6.toInt) fun t1 =>
  .prim (var1a * p5.toInt) fun v5 =>
  .prim (v5 * 2 ^ 17) fun t2 =>
  .prim (p4.toInt * 2 ^ 35) fun t3 =>
  .prim (t1 + t2) fun t12 =>
  .prim (t12 + t3) fun var2a =>
  .prim (var1a * var1a) fun sq' =>
  .prim (sq' * p3.toInt) fun v3 =>
  .prim (var1a * p2.toInt) fun v2 =>
  .prim (v2 * 2 ^ 12) fun t5 =>
  .prim (asrN v3 8 + t5) fun var1b =>
  .prim (2 ^ 47) fun one47 =>
  .prim (one47 + var1b) fun w1 =>
  .prim (w1 * p1.toNat) fun w2 =>
  .done (var2a, asrN w2 33)

/-- `CompP`'s primitives from its guard on, past a divisor that is not 0. -/
def pressureQuotientCalc (rawP : BitVec 20) (p7 p8 p9 : BitVec 16) (var2a var1c : Int) : Calc Int :=
  .prim (1048576 - rawP.toNat) fun p0 =>
  .prim (p0 * 2 ^ 31) fun n1 =>
  .prim (n1 - var2a) fun n2 =>
  .prim (n2 * 3125) fun n3 =>
  .prim (n3.tdiv var1c) fun q =>
  .prim (p9.toInt * asrN q 13) fun u1 =>
  .prim (u1 * asrN q 13) fun u2 =>
  .prim (p8.toInt * q) fun v8 =>
  .prim (q + asrN u2 25) fun r1 =>
  .prim (r1 + asrN v8 19) fun r2 =>
  .prim (p7.toInt * 2 ^ 4) fun v7 =>
  .prim (asrN r2 8 + v7) fun p2 =>
  .done p2

theorem pressureTerms_eq_run (p1 p2 p3 p4 p5 p6 : BitVec 16) (fine : BitVec 32) :
    pressureTerms p1 p2 p3 p4 p5 p6 fine =
      let r := (pressureTermsCalc p1 p2 p3 p4 p5 p6 fine).run 64 false
      { var2a := r.1.1, var1c := r.1.2, ovf := r.2 } := by
  simp only [pressureTerms, pressureTermsCalc, Calc.run, addN, subN, mulN, shlN, narrow, one_mul]

theorem pressureQuotient_eq_run (rawP : BitVec 20) (p7 p8 p9 : BitVec 16) (v : PressureTerms)
    (nonzero : v.var1c ≠ 0) :
    pressureQuotient rawP p7 p8 p9 v nonzero =
      let r := (pressureQuotientCalc rawP p7 p8 p9 v.var2a v.var1c).run 64 v.ovf
      { p := BitVec.ofInt 64 r.1, degen := false, ovf := r.2 } := by
  simp only [pressureQuotient, pressureQuotientCalc, Calc.run, addN, subN, mulN, shlN, divN, narrow]

section

variable {rawP : BitVec 20} {p1 p2 p3 p4 p5 p6 p7 p8 p9 : BitVec 16} {fine : BitVec 32}

/-- `CompP` for a divisor that is 0 (42_compensation.md R93, the guard). -/
theorem compP_of_zero (zero : (pressureTerms p1 p2 p3 p4 p5 p6 fine).var1c = 0) :
    compP rawP p1 p2 p3 p4 p5 p6 p7 p8 p9 fine =
      { p := 0#64, degen := true, ovf := (pressureTerms p1 p2 p3 p4 p5 p6 fine).ovf } :=
  dif_neg (not_not_intro zero)

/-- `CompP` for a divisor that is not 0. -/
theorem compP_of_nonzero (nonzero : (pressureTerms p1 p2 p3 p4 p5 p6 fine).var1c ≠ 0) :
    compP rawP p1 p2 p3 p4 p5 p6 p7 p8 p9 fine =
      pressureQuotient rawP p7 p8 p9 (pressureTerms p1 p2 p3 p4 p5 p6 fine) nonzero :=
  dif_pos nonzero

theorem pressureTerms_ovf_eq_false_iff :
    (pressureTerms p1 p2 p3 p4 p5 p6 fine).ovf = false ↔ (pressureTermsCalc p1 p2 p3 p4 p5 p6 fine).AllFit 64 := by
  rw [pressureTerms_eq_run, Calc.run_snd_eq_false_iff (by decide), eq_self_iff_true, true_and]

theorem pressureTerms_of_allFit (fit : (pressureTermsCalc p1 p2 p3 p4 p5 p6 fine).AllFit 64) :
    pressureTerms p1 p2 p3 p4 p5 p6 fine =
      let v := (pressureTermsCalc p1 p2 p3 p4 p5 p6 fine).exactResult
      { var2a := v.1, var1c := v.2, ovf := false } := by
  rw [pressureTerms_eq_run, Calc.run_of_allFit (by decide) _ _ fit]

/-- `CompP` overflows exactly when its terms do or its quotient does, the quotient counting only past the guard. -/
theorem compP_ovf_eq_false_iff :
    (compP rawP p1 p2 p3 p4 p5 p6 p7 p8 p9 fine).ovf = false ↔
      (pressureTermsCalc p1 p2 p3 p4 p5 p6 fine).AllFit 64 ∧
        let v := (pressureTermsCalc p1 p2 p3 p4 p5 p6 fine).exactResult
        (v.2 ≠ 0 → (pressureQuotientCalc rawP p7 p8 p9 v.1 v.2).AllFit 64) := by
  have computed : (compP rawP p1 p2 p3 p4 p5 p6 p7 p8 p9 fine).ovf = false ↔
      (pressureTerms p1 p2 p3 p4 p5 p6 fine).ovf = false ∧
        let v := pressureTerms p1 p2 p3 p4 p5 p6 fine
        (v.var1c ≠ 0 → (pressureQuotientCalc rawP p7 p8 p9 v.var2a v.var1c).AllFit 64) := by
    by_cases zero : (pressureTerms p1 p2 p3 p4 p5 p6 fine).var1c = 0
    · rw [compP_of_zero zero]
      simp [zero]
    · rw [compP_of_nonzero zero, pressureQuotient_eq_run,
        Calc.run_snd_eq_false_iff (by decide)]
      simp [zero]
  rw [computed, pressureTerms_ovf_eq_false_iff]
  refine and_congr_right fun fit => ?_
  rw [pressureTerms_of_allFit fit]

/-- Without an overflow `CompP` tests the exact divisor and gives the exact result, or the sentinel 0. -/
theorem compP_of_clear (clear : (compP rawP p1 p2 p3 p4 p5 p6 p7 p8 p9 fine).ovf = false) :
    let v := (pressureTermsCalc p1 p2 p3 p4 p5 p6 fine).exactResult
    let r := compP rawP p1 p2 p3 p4 p5 p6 p7 p8 p9 fine
    r.degen = decide (v.2 = 0) ∧
      r.p = if v.2 = 0 then 0#64 else BitVec.ofInt 64 (pressureQuotientCalc rawP p7 p8 p9 v.1 v.2).exactResult := by
  obtain ⟨fitTerms, fitQuotient⟩ := compP_ovf_eq_false_iff.1 clear
  have terms := pressureTerms_of_allFit fitTerms
  by_cases zero : (pressureTermsCalc p1 p2 p3 p4 p5 p6 fine).exactResult.2 = 0
  · rw [compP_of_zero (by rw [terms]; exact zero)]
    simp [zero]
  · rw [compP_of_nonzero (by rw [terms]; exact zero), pressureQuotient_eq_run, terms,
      Calc.run_of_allFit (by decide) _ _ (fitQuotient zero)]
    simp [zero]

end

/-- A member that a list repeats adds nothing to what holds of all its members. -/
theorem forall_mem_insertIdx_iff {P : Int → Prop} {l : List Int} {k : Nat} {y : Int} (hk : k ≤ l.length)
    (hy : y ∈ l) : (∀ x ∈ l.insertIdx k y, P x) ↔ ∀ x ∈ l, P x := by
  simp only [List.mem_insertIdx hk, forall_eq_or_imp]
  exact ⟨And.right, fun h => ⟨h y hy, h⟩⟩

theorem toInt_ofInt_of_fits {n : Nat} {x : Int} (hn : 0 < n) (fits : Fits n x) : (BitVec.ofInt n x).toInt = x := by
  rw [BitVec.toInt_ofInt]
  exact wrap_of_mem fits.1 fits.2 hn

/-- Settles O9: `CompP` is the run of its terms and, past the guard, of its quotient; their exact results are the
statement's two lists. -/
theorem pressureOverflowsExactlyWhenAPrimitiveDoes : Obligations.PressureOverflowsExactlyWhenAPrimitiveDoes := by
  unfold Obligations.PressureOverflowsExactlyWhenAPrimitiveDoes
  intro rawP p1 p2 p3 p4 p5 p6 p7 p8 p9 fine a t1 t2 t3 var2a t5 var1b w var1c p0 n q u sum total result before after r
  -- The terms compute the square of `var1a` twice.
  have exactResults_eq : (pressureTermsCalc p1 p2 p3 p4 p5 p6 fine).exactResults = before.insertIdx 8 (a * a) := rfl
  have before_iff : (pressureTermsCalc p1 p2 p3 p4 p5 p6 fine).AllFit 64 ↔ ∀ x ∈ before, Fits 64 x := by
    rw [Calc.AllFit, exactResults_eq]
    exact forall_mem_insertIdx_iff (by simp [before]) (.tail _ (.head _))
  have clear_iff : r.ovf = false ↔ (∀ x ∈ before, Fits 64 x) ∧ (var1c ≠ 0 → ∀ x ∈ after, Fits 64 x) := by
    rw [← before_iff]
    exact compP_ovf_eq_false_iff
  refine ⟨clear_iff, fun clear => ?_⟩
  obtain ⟨hdegen, hp⟩ := compP_of_clear clear
  refine ⟨hdegen, ?_⟩
  rw [hp]
  split
  case isTrue zero => exact (if_pos zero).symm
  case isFalse nonzero =>
    have fits : Fits 64 result := (clear_iff.1 clear).2 nonzero result (List.getLast_mem (l := after) (by simp [after]))
    exact (toInt_ofInt_of_fits (by decide) fits).trans (if_neg nonzero).symm

/-! ### The model's one fault (00_scope.md R21, 10_state.md R35) -/

/-- A set flag stands over a register that holds `⊥`: what 10_state.md R35 excludes. -/
def FlagOverBottom (s : State) : Prop :=
  (s.status.calValid = true ∧ s.cal = none) ∨ (s.status.rawValid = true ∧ s.raw = none) ∨
    (s.status.ftValid = true ∧ s.tFine = none)

theorem not_flagOverBottom_of_flagsBacked {s : State} (h : FlagsBacked s) : ¬ FlagOverBottom s := by
  obtain ⟨-, raw, cal, fine⟩ := h
  rintro (⟨flag, bottom⟩ | ⟨flag, bottom⟩ | ⟨flag, bottom⟩)
  · exact cal flag bottom
  · exact raw flag bottom
  · exact fine flag bottom

/-- Past the checks of `COMPP` and `COMPH`, a register without a value stands under a set flag. -/
theorem flagOverBottom_of_gateFine {s : State} (gate : gateFine s.status = .ok)
    (missing : s.cal = none ∨ s.raw = none ∨ s.tFine = none) : FlagOverBottom s := by
  obtain ⟨-, cal, raw, fine⟩ := (gateFine_eq_ok_iff _).1 gate
  exact missing.imp (.intro cal) (.imp (.intro raw) (.intro fine))

/-- A command faults only where a set flag stands over `⊥`. -/
theorem exec_fault {i : Instr} {s : State} {f : Fault} (h : exec i s = .fault f) : FlagOverBottom s := by
  cases i <;> simp only [exec] at h
  case idchk => rcases execIdchk_cases s with ⟨-, e⟩ | ⟨_, -, -, e⟩ | ⟨_, -, -, e⟩ <;> rw [e] at h <;> cases h
  case ldcal => cases h
  case ldraw => rcases execLdraw_cases s with ⟨-, e⟩ | ⟨-, e⟩ <;> rw [e] at h <;> cases h
  case ldrawS => rcases execLdrawS_cases s with ⟨-, e⟩ | ⟨-, e⟩ <;> rw [e] at h <;> cases h
  case compt =>
    rcases execCompt_cases s with ⟨-, e⟩ | ⟨gate, missing, -⟩ | ⟨_, _, -, -, -, e⟩
    · rw [e] at h; cases h
    · obtain ⟨-, cal, raw⟩ := (gateTemperature_eq_ok_iff _).1 gate
      exact missing.imp (.intro cal) fun bottom => .inl ⟨raw, bottom⟩
    · rw [e] at h; cases h
  case compp =>
    rcases execCompp_cases s with ⟨-, e⟩ | ⟨gate, missing, -⟩ | ⟨_, _, _, -, -, -, -, e⟩
    · rw [e] at h; cases h
    · exact flagOverBottom_of_gateFine gate missing
    · rw [e] at h; cases h
  case comph =>
    rcases execComph_cases s with ⟨-, e⟩ | ⟨gate, missing, -⟩ | ⟨_, _, _, -, -, -, -, e⟩
    · rw [e] at h; cases h
    · exact flagOverBottom_of_gateFine gate missing
    · rw [e] at h; cases h
  case meas =>
    rcases execMeas_cases s with ⟨-, e⟩ | ⟨⟨-, cal⟩, bottom, -⟩ | ⟨_, -, -, e⟩
    · rw [e] at h; cases h
    · exact .inl ⟨cal, bottom⟩
    · rw [e] at h; cases h
  case measS =>
    rcases execMeasS_cases s with ⟨-, e⟩ | ⟨⟨-, cal⟩, bottom, -⟩ | ⟨_, -, -, e⟩
    · rw [e] at h; cases h
    · exact .inl ⟨cal, bottom⟩
    · rw [e] at h; cases h

/-- A written word faults only where a set flag stands over `⊥`: an illegal one never does. -/
theorem runWord_fault {w : Byte} {s : State} {f : Fault} (h : runWord w s = .fault f) : FlagOverBottom s := by
  simp only [runWord] at h
  split at h
  · exact exec_fault h
  · cases h

/-- The Host's look at `ERR` adds no fault (30_encoding.md R71). -/
theorem continueSequence_fault {words : List Byte} {r : Host.Outcome State Fault Refusal} {f : Fault}
    (h : continueSequence words r = .fault f) : r = .fault f := by
  cases r with
  | next t => simp only [continueSequence] at h; split at h <;> cases h
  | fault g => exact h
  | refused g => cases h

/-- A step that faults ran a command word. -/
theorem step_fault {s : State} {f : Fault} (h : step s = .fault f) :
    ∃ w rest, runWord w (setPending rest s) = .fault f := by
  simp only [step, hostStep] at h
  split at h
  case h_1 => cases h
  case h_2 => split at h; exacts [⟨_, _, h⟩, by cases h]
  case h_3 => split at h <;> cases h
  case h_4 => cases h
  case h_5 => exact ⟨_, _, continueSequence_fault h⟩

/-- Settles O30: a step that faults ran a command in a state where a set flag stands over `⊥`. -/
theorem backedStatesNeverFault : Obligations.BackedStatesNeverFault := by
  unfold Obligations.BackedStatesNeverFault
  intro s f backed h
  obtain ⟨w, rest, hrun⟩ := step_fault h
  exact not_flagOverBottom_of_flagsBacked (s := setPending rest s) backed (runWord_fault hrun)

end Sys2Proof.Proofs

/-! # State (10_state.md): what a command can do, the invariant, the frame, the Host's accesses and reset -/

namespace Sys2Proof.Proofs

open Sys2Proof.Machine Sys2Proof.Safety

/-! ### The state a command is in after its bursts -/

@[simp] theorem started_params (i : Instr) (n : Nat) (s : State) : (started i n s).params = s.params := rfl
@[simp] theorem started_status (i : Instr) (n : Nat) (s : State) :
    (started i n s).status = { s.status with err := .ok, ovf := false, degen := false, ftValid := false } := rfl
@[simp] theorem started_cal (i : Instr) (n : Nat) (s : State) : (started i n s).cal = s.cal := rfl
@[simp] theorem started_raw (i : Instr) (n : Nat) (s : State) : (started i n s).raw = s.raw := rfl
@[simp] theorem started_tFine (i : Instr) (n : Nat) (s : State) : (started i n s).tFine = s.tFine := rfl
@[simp] theorem started_tOut (i : Instr) (n : Nat) (s : State) : (started i n s).tOut = s.tOut := rfl
@[simp] theorem started_pOut (i : Instr) (n : Nat) (s : State) : (started i n s).pOut = s.pOut := rfl
@[simp] theorem started_hOut (i : Instr) (n : Nat) (s : State) : (started i n s).hOut = s.hOut := rfl
@[simp] theorem started_idLast (i : Instr) (n : Nat) (s : State) : (started i n s).idLast = s.idLast := rfl
@[simp] theorem started_host (i : Instr) (n : Nat) (s : State) : (started i n s).host = s.host := rfl

/-! ### The ends of a command, by name -/

/-- `exec_next_cases` with a name for each end: `CommandEnd i s t` says that the command `i` can take `s` to `t`. A short
raw read is one end of all four commands that make one. -/
inductive CommandEnd : Instr → State → State → Prop
  | refused {i s e} (error : e ≠ .ok) (gated : i ∉ [.idchk, .ldcal]) : CommandEnd i s (raise e (beginCommand s))
  | identityShort {s} :
    CommandEnd .idchk s (raise .transport (afterBursts (burstsOf s.params .idchk) (beginCommand s)))
  | identityExpected {s} :
    CommandEnd .idchk s (setIdst .ok { afterBursts (burstsOf s.params .idchk) (beginCommand s) with
      idLast := some s.params.idExpected })
  | identityOther {s b} (other : b ≠ s.params.idExpected) :
    CommandEnd .idchk s (raise .nodev (setIdst .mismatch
      { afterBursts (burstsOf s.params .idchk) (beginCommand s) with idLast := some b }))
  | calibrationShort {s n} (bursts : 1 ≤ n ∧ n ≤ 3) : CommandEnd .ldcal s (calibrationFailed (started .ldcal n s))
  | calibrationLoaded {s tp h1 h} :
    CommandEnd .ldcal s (setCalValid true
      { started .ldcal 3 s with cal := some (decodeCal s.params.h45Signed tp h1 h) })
  | rawShort {i s n} (reads : i ∈ [.ldraw, .ldrawS] ∨ i ∈ [.meas, .measS]) (idst : s.status.idst ≠ .mismatch)
    (bursts : 1 ≤ n ∧ n ≤ 3) : CommandEnd i s (rawFailed (started i n s))
  | rawStored {i s r} (reads : i ∈ [.ldraw, .ldrawS]) (idst : s.status.idst ≠ .mismatch) :
    CommandEnd i s (writeRaw r (started i 3 s))
  | temperature {s c r x} (result : x = temperatureOf c r) (gate : gateTemperature s.status = .ok)
    (cal : s.cal = some c) (raw : s.raw = some r) : CommandEnd .compt s (writeTemperature x (beginCommand s))
  | pressure {s c r fine y} (result : y = pressureOf c r fine) (gate : gateFine s.status = .ok) (cal : s.cal = some c)
    (raw : s.raw = some r) (tFine : s.tFine = some fine) : CommandEnd .compp s (writePressure y (beginCommand s))
  | humidity {s c r fine z} (result : z = humidityOf c r fine) (gate : gateFine s.status = .ok) (cal : s.cal = some c)
    (raw : s.raw = some r) (tFine : s.tFine = some fine) : CommandEnd .comph s (writeHumidity z (beginCommand s))
  | measured {i s c r x y z} (reads : i ∈ [.meas, .measS]) (temperature : x = temperatureOf c r)
    (pressure : y = pressureOf c r x.fine) (humidity : z = humidityOf c r x.fine) (idst : s.status.idst ≠ .mismatch)
    (calValid : s.status.calValid = true) (cal : s.cal = some c) :
    CommandEnd i s (writeAll x y z (writeRaw r (started i 3 s)))

theorem commandEnd_of_exec {i : Instr} {s t : State} (h : exec i s = .next t) : CommandEnd i s t := by
  rcases exec_next_cases h with ⟨e, error, gated, rfl⟩ | ⟨rfl, rfl | rfl | ⟨b, other, rfl⟩⟩ |
    ⟨rfl, ⟨n, lo, hi, rfl⟩ | ⟨tp, h1, b, rfl⟩⟩ | ⟨reads, idst, ⟨n, lo, hi, rfl⟩ | ⟨r, rfl⟩⟩ |
    ⟨rfl, c, r, x, gate, cal, raw, result, rfl⟩ | ⟨rfl, c, r, fine, y, gate, cal, raw, tFine, result, rfl⟩ |
    ⟨rfl, c, r, fine, z, gate, cal, raw, tFine, result, rfl⟩ |
    ⟨reads, idst, calValid, c, cal, ⟨n, lo, hi, rfl⟩ | ⟨r, x, y, z, hx, hy, hz, rfl⟩⟩
  · exact .refused error gated
  · exact .identityShort
  · exact .identityExpected
  · exact .identityOther other
  · exact .calibrationShort ⟨lo, hi⟩
  · exact .calibrationLoaded
  · exact .rawShort (.inl reads) idst ⟨lo, hi⟩
  · exact .rawStored reads idst
  · exact .temperature result gate cal raw
  · exact .pressure result gate cal raw tFine
  · exact .humidity result gate cal raw tFine
  · exact .rawShort (.inr reads) idst ⟨lo, hi⟩
  · exact .measured reads hx hy hz idst calValid cal

/-! ### Each part of the invariant is kept by every command

A part that reads nothing an end writes holds after it as before: the last alternative of each proof. -/

/-- 10_state.md R35: a flag is set only where its register is written, and `FT_VALID` only beside the other two. -/
theorem flagsBacked_of_commandEnd {i : Instr} {s t : State} (hs : FlagsBacked s) (h : CommandEnd i s t) :
    FlagsBacked t := by
  obtain ⟨fine, raw, cal, tFine⟩ := hs
  cases h with
  | calibrationShort | calibrationLoaded => exact ⟨nofun, raw, nofun, nofun⟩
  | rawShort | rawStored => exact ⟨nofun, nofun, cal, nofun⟩
  | temperature _ gate =>
    obtain ⟨-, calSet, rawSet⟩ := (gateTemperature_eq_ok_iff _).1 gate
    exact ⟨fun _ => ⟨by simpa using rawSet, by simpa using calSet⟩, by simpa using raw, by simpa using cal, by simp⟩
  | measured _ _ _ _ _ calSet => exact ⟨fun _ => ⟨by simp, by simpa using calSet⟩, by simp, by simpa using cal, by simp⟩
  | _ => exact ⟨fine, raw, cal, tFine⟩

/-- 42_compensation.md R92: after `CompT`'s writes, its draw taken in `s`, the fine temperature is current. -/
theorem fineCurrent_of_written {s t : State} {c : Calibration} {r : RawSample} {x : TemperatureResult}
    (cal : t.cal = some c) (raw : t.raw = some r) (result : x = temperatureOf c r) (tFine : t.tFine = some x.fine)
    (tOut : t.tOut = some (outputValue (drawsResult x.ovf s) Config.anyTemperature x.tout s))
    (params : t.params = s.params) : FineCurrent t := by
  intro _
  refine ⟨c, r, cal, raw, ?_⟩
  rw [← result, tOut, params]
  exact ⟨tFine, (temperatureWritten_computed_or_free x s).imp_left (congrArg some)⟩

/-- 10_state.md R33: what would make the fine temperature old clears `FT_VALID`, and only a `CompT` of the sample and
calibration held sets it. -/
theorem fineCurrent_of_commandEnd {i : Instr} {s t : State} (hs : FineCurrent s) (h : CommandEnd i s t) :
    FineCurrent t := by
  cases h with
  | calibrationShort | calibrationLoaded | rawShort | rawStored => exact nofun
  | temperature result _ cal raw =>
    exact fineCurrent_of_written (by simpa using cal) (by simpa using raw) result (writeTemperature_tFine _ _)
      (writeTemperature_tOut _ _) (writeTemperature_params _ _)
  | measured _ result _ _ _ _ cal =>
    exact fineCurrent_of_written (by simpa using cal) (by simp) result (writeAll_tFine _ _ _ _) (writeAll_tOut _ _ _ _)
      (writeAll_params _ _ _ _)
  | _ => simpa [FineCurrent] using hs

/-- 10_state.md R29, R32: only `IDCHK` writes the identity record, both parts of it together. -/
theorem identityRecorded_of_commandEnd {i : Instr} {s t : State} (hs : IdentityRecorded s) (h : CommandEnd i s t) :
    IdentityRecorded t := by
  cases h with
  | identityExpected => rfl
  | identityOther other => exact ⟨_, rfl, other⟩
  | _ => simpa [IdentityRecorded] using hs

/-- 10_state.md R24: only a whole load writes H4 and H5, from 12 bits each. -/
theorem nibbleConstantsInRange_of_commandEnd {i : Instr} {s t : State} (hs : NibbleConstantsInRange s)
    (h : CommandEnd i s t) : NibbleConstantsInRange t := by
  cases h with
  | calibrationLoaded =>
    rintro _ ⟨⟩
    exact ⟨extend12_twelveBit _ _, extend12_twelveBit _ _⟩
  | _ => simpa [NibbleConstantsInRange] using hs

/-- 42_compensation.md R98: what `H_OUT` receives is a clamped result or a bounded draw. -/
theorem humidityBounded_of_commandEnd {i : Instr} {s t : State} (hs : HumidityBounded s) (h : CommandEnd i s t) :
    HumidityBounded t := by
  cases h with
  | humidity result =>
    intro v hv
    rw [writeHumidity_hOut, Option.some.injEq] at hv
    rw [← hv, result]
    exact humidityWritten_le ..
  | measured _ _ _ result =>
    intro v hv
    rw [writeAll_hOut, Option.some.injEq] at hv
    rw [← hv, result]
    exact humidityWritten_le ..
  | _ => simpa [HumidityBounded] using hs

/-- 42_compensation.md R94: after `CompP`'s writes, its draw taken in `s`, a set `DEGEN` stands beside the sentinel or
beside a draw. -/
theorem fieldsOfLastCommand_of_written {s t : State} {c : Calibration} {r : RawSample} {fine : BitVec 32}
    {y : PressureResult} (result : y = pressureOf c r fine) (err : t.status.err = .ok)
    (degen : t.status.degen = y.degen) (ovf : y.ovf = true → t.status.ovf = true)
    (pOut : t.pOut = some (outputValue (drawsResult y.ovf s) Config.anyPressure y.p s))
    (params : t.params = s.params) : FieldsOfLastCommand t := by
  refine ⟨fun error => absurd err error, fun degenerate => ?_⟩
  rw [degen, result] at degenerate
  rw [pOut, params]
  refine (degeneratePressure_zero_or_free c r fine s degenerate).imp ?_ (.imp_right ?_)
  · rw [← result]; exact congrArg some
  · rw [← result]; exact ovf

/-- 60_exceptions.md R108: this part needs no premise, since every command writes the per-command fields anew
(10_state.md R34). -/
theorem fieldsOfLastCommand_of_commandEnd {i : Instr} {s t : State} (h : CommandEnd i s t) :
    FieldsOfLastCommand t := by
  cases h with
  | pressure result =>
    exact fieldsOfLastCommand_of_written result (by simp) (by simp) (by simp) (writePressure_pOut _ _)
      (writePressure_params _ _)
  | @measured i s c r x y z _ _ result =>
    exact fieldsOfLastCommand_of_written (s := writeTemperature x (writeRaw r (started i 3 s))) result (by simp)
      (by simp) (by simp +contextual) (by simp) (by simp)
  | temperature | humidity => exact ⟨fun error => absurd rfl error, nofun⟩
  | _ => exact ⟨fun _ => ⟨rfl, rfl⟩, nofun⟩

/-- The whole invariant is kept by every command. -/
theorem coherent_of_commandEnd {i : Instr} {s t : State} (hs : Coherent s) (h : CommandEnd i s t) : Coherent t := by
  obtain ⟨flags, fine, identity, nibbles, humidity, -⟩ := hs
  exact ⟨flagsBacked_of_commandEnd flags h, fineCurrent_of_commandEnd fine h, identityRecorded_of_commandEnd identity h,
    nibbleConstantsInRange_of_commandEnd nibbles h, humidityBounded_of_commandEnd humidity h,
    fieldsOfLastCommand_of_commandEnd h⟩

/-- An illegal word writes `ERR`, `OVF` and `DEGEN` alone (30_encoding.md R67). -/
theorem coherent_illegal {s : State} (hs : Coherent s) : Coherent (raise .illegal (beginCommand s)) := by
  obtain ⟨flags, fine, identity, nibbles, humidity, -⟩ := hs
  exact ⟨flags, fine, identity, nibbles, humidity, fun _ => ⟨rfl, rfl⟩, nofun⟩

/-- Settles O26: every command keeps it, and neither an illegal word nor the Host writes what it reads. -/
theorem stepKeepsFlagsBacked : Obligations.StepKeepsFlagsBacked := by
  unfold Obligations.StepKeepsFlagsBacked
  exact fun s t => step_keeps (fun _ _ hs => hs) (fun _ hs => hs)
    fun _ _ _ hs h => flagsBacked_of_commandEnd hs (commandEnd_of_exec h)

/-- Settles O27: every command keeps it, and neither an illegal word nor the Host writes what it reads. -/
theorem stepKeepsFineTemperatureCurrent : Obligations.StepKeepsFineTemperatureCurrent := by
  unfold Obligations.StepKeepsFineTemperatureCurrent
  exact fun s t => step_keeps (fun _ _ hs => hs) (fun _ hs => hs)
    fun _ _ _ hs h => fineCurrent_of_commandEnd hs (commandEnd_of_exec h)

/-- Settles O28: every command and an illegal word keep each part, and the Host writes nothing that a part reads. -/
theorem stepKeepsCoherent : Obligations.StepKeepsCoherent := by
  unfold Obligations.StepKeepsCoherent
  exact fun s t => step_keeps (fun _ _ hs => hs) (fun _ => coherent_illegal)
    fun _ _ _ hs h => coherent_of_commandEnd hs (commandEnd_of_exec h)

/-! ### Reset and the reachable states -/

/-- Settles O24: each field is `State.resetWith`'s own, and the word of `STATUS` is made of zeros. -/
theorem resetLeavesStatusZeroAndBottom : Obligations.ResetLeavesStatusZeroAndBottom := by
  unfold Obligations.ResetLeavesStatusZeroAndBottom
  intro p
  have status : statusWord Status.reset = 0x0000#16 := by decide
  exact ⟨rfl, rfl, rfl, rfl, rfl, rfl, rfl, status, rfl, rfl, rfl, rfl, rfl, rfl, rfl⟩

/-- Settles O25: no flag is set, `IDST` is UNCHECKED, and no register holds a value. -/
theorem coherentAtReset : Obligations.CoherentAtReset := by
  unfold Obligations.CoherentAtReset
  intro p
  have flags : FlagsBacked (State.resetWith p) := ⟨nofun, nofun, nofun, nofun⟩
  have fine : FineCurrent (State.resetWith p) := nofun
  have identity : IdentityRecorded (State.resetWith p) := rfl
  have nibbles : NibbleConstantsInRange (State.resetWith p) := nofun
  have humidity : HumidityBounded (State.resetWith p) := nofun
  have fields : FieldsOfLastCommand (State.resetWith p) := ⟨fun _ => ⟨rfl, rfl⟩, nofun⟩
  exact ⟨flags, fine, identity, nibbles, humidity, fields⟩

theorem core_step : Sys2Proof.core.step = step := rfl

/-- What every step keeps, every run keeps. -/
theorem run_keeps {P : State → Prop} (keeps : ∀ s t, P s → step s = .next t → P t) (k : Nat) {s t : State}
    (hs : P s) (h : Host.Core.run Sys2Proof.core k s = .next t) : P t := by
  induction k generalizing s with
  | zero =>
    cases h
    exact hs
  | succ k ih =>
    rcases hstep : step s with u | f | f <;> simp only [Host.Core.run, core_step, hstep] at h
    · exact ih (keeps s u hs hstep) h
    · cases h
    · cases h

/-- Settles O29: the invariant holds at reset, whatever the agents hold, and every step keeps it. -/
theorem reachableStatesAreCoherent : Obligations.ReachableStatesAreCoherent := by
  unfold Obligations.ReachableStatesAreCoherent
  intro p replies program k t h
  refine run_keeps stepKeepsCoherent k ?_ h
  exact coherentAtReset p

/-! ### The frame of each command, and the freshness of the per-command fields -/

/-- Settles O55: each end of a command writes what its rule names. -/
theorem commandsLeaveTheRestUnchanged : Obligations.CommandsLeaveTheRestUnchanged := by
  unfold Obligations.CommandsLeaveTheRestUnchanged
  intro i s t h
  cases commandEnd_of_exec h with
  | refused | identityShort | identityExpected | identityOther | calibrationShort | calibrationLoaded | temperature
  | pressure | humidity => simp
  | rawShort reads =>
    rcases reads with reads | reads <;> rcases List.mem_pair.1 reads with rfl | rfl <;> simp
  | rawStored reads | measured reads => rcases List.mem_pair.1 reads with rfl | rfl <;> simp

/-- The clears at the start of a command leave nothing of the old per-command fields (10_state.md R34). -/
theorem beginCommand_perCommand (s : State) (e : ErrCode) (o d : Bool) :
    beginCommand { s with status := { s.status with err := e, ovf := o, degen := d } } = beginCommand s := rfl

theorem beginCommand_beginCommand (s : State) : beginCommand (beginCommand s) = beginCommand s := rfl

/-- Every command begins with the clears. -/
theorem exec_beginCommand (i : Instr) (s : State) : exec i (beginCommand s) = exec i s := by
  cases i <;> simp only [exec]
  case idchk => simp only [execIdchk, beginCommand_beginCommand, beginCommand_params]
  case ldcal => simp only [execLdcal, beginCommand_beginCommand]
  case ldraw => simp only [execLdraw, beginCommand_beginCommand]
  case ldrawS => simp only [execLdrawS, beginCommand_beginCommand]
  case compt => simp only [execCompt, beginCommand_beginCommand]
  case compp => simp only [execCompp, beginCommand_beginCommand]
  case comph => simp only [execComph, beginCommand_beginCommand]
  case meas => simp only [execMeas, beginCommand_beginCommand]
  case measS => simp only [execMeasS, beginCommand_beginCommand]

/-- Settles O31: a command and an illegal word read the state only past the clears, and `DEGEN` = 1 beside an error is
what `FieldsOfLastCommand` excludes. -/
theorem perCommandFieldsAreFresh : Obligations.PerCommandFieldsAreFresh := by
  unfold Obligations.PerCommandFieldsAreFresh
  constructor
  · intro i s e o d
    constructor
    · rw [← exec_beginCommand, beginCommand_perCommand, exec_beginCommand]
    · rw [execIllegal, beginCommand_perCommand, execIllegal]
  · intro i s t h degen
    by_contra error
    obtain ⟨-, clear⟩ := (fieldsOfLastCommand_of_commandEnd (commandEnd_of_exec h)).1 error
    rw [clear] at degen
    cases degen

/-! ### A wrong identity -/

/-- Settles O57: the first check of every gate fails. -/
theorem mismatchRefusesEveryMeasurement : Obligations.MismatchRefusesEveryMeasurement := by
  unfold Obligations.MismatchRefusesEveryMeasurement
  intro i s mismatch gated
  have refused : exec i s = .next (raise .notready (beginCommand s)) := by
    cases i <;> simp only [exec]
    case idchk => simp at gated
    case ldcal => simp at gated
    case ldraw => simp [execLdraw, gateRaw, mismatch]
    case ldrawS => simp [execLdrawS, gateRaw, mismatch]
    case compt => simp [execCompt, gateTemperature, mismatch]
    case compp => simp [execCompp, gateFine, mismatch]
    case comph => simp [execComph, gateFine, mismatch]
    case meas => simp [execMeas, gateReady, mismatch]
    case measS => simp [execMeasS, gateReady, mismatch]
  exact refused

/-! ### One step of the Host -/

theorem step_of_write {s : State} {w : Byte} {rest : List HostAction}
    (next : s.host.pending = .write cmdIndex w :: rest) : step s = runWord w (setPending rest s) := by
  simp [step, hostStep, next]

theorem runWord_of_decode {s : State} {w : Byte} {i : Instr} (decoded : decode s.params.singleBurst w = .ok i) :
    runWord w s = exec i s := by
  rw [runWord, decoded]

/-- Settles O16: a write to `CMD` runs its word, and a word that decodes runs its command. -/
theorem stepRunsTheDecodedCommand : Obligations.StepRunsTheDecodedCommand := by
  unfold Obligations.StepRunsTheDecodedCommand
  intro s w rest i next decoded
  rw [step_of_write next]
  exact runWord_of_decode decoded

/-- Settles O19: what the Host's step does on a read and on a write that is not one of `CMD`. -/
theorem hostAccessesTouchNoRegister : Obligations.HostAccessesTouchNoRegister := by
  unfold Obligations.HostAccessesTouchNoRegister
  intro s index v rest
  refine ⟨fun next => ⟨fun value answered => ?_, fun why refused => ?_⟩, fun next other => ?_⟩
  · simp [step, hostStep, next, answered, setReceived, setPending]
  · simp [step, hostStep, next, refused]
  · simp [step, hostStep, next, cmdIndex, other]

/-! ### The word behind a change -/

/-- A word that decodes is the word of its row: checked on all 256 words, for both values of `SINGLE_BURST`. -/
theorem decode_all_encode :
    ∀ (singleBurst : Bool) (w : Byte), (decode singleBurst w).toOption.all (encode · = w) = true := by
  decide

/-- The decoder gives a command only to its own word (30_encoding.md R65, R69). -/
theorem encode_of_decode {singleBurst : Bool} {w : Byte} {i : Instr} (decoded : decode singleBurst w = .ok i) :
    encode i = w := by
  simpa [decoded, Except.toOption] using decode_all_encode singleBurst w

/-- The Host's next command word is `w`, alone or first of a pseudo-instruction's words. -/
def NextWord (s : State) (w : Byte) : Prop :=
  ∃ rest, s.host.pending = .write 0x00#8 w :: rest ∨ ∃ words, s.host.pending = .sequence (w :: words) :: rest

/-- A step leaves the block alone, or it runs the Host's next word; beyond that it writes the Host's own fields alone. -/
theorem step_block_cases {s t : State} (h : step s = .next t) :
    (∃ agent, t = { s with host := agent }) ∨
      ∃ w rest u agent, NextWord s w ∧ runWord w (setPending rest s) = .next u ∧ t = { u with host := agent } := by
  rcases step_cases h with ⟨-, rfl⟩ | ⟨w, rest, next, run⟩ | ⟨_, _, _, -, -, rfl⟩ | ⟨_, -, rfl⟩ |
    ⟨w, words, rest, u, next, run, ⟨-, rfl⟩ | ⟨-, rfl⟩⟩
  · exact .inl ⟨_, rfl⟩
  · exact .inr ⟨w, rest, t, _, ⟨rest, .inl next⟩, run, rfl⟩
  · exact .inl ⟨_, rfl⟩
  · exact .inl ⟨_, rfl⟩
  · exact .inr ⟨w, rest, t, _, ⟨rest, .inr ⟨words, next⟩⟩, run, rfl⟩
  · exact .inr ⟨w, rest, u, _, ⟨rest, .inr ⟨words, next⟩⟩, run, rfl⟩

/-- A step leaves the block alone, or does what an illegal word does, or what the command of the Host's next word does;
beyond that it writes the Host's own fields alone. -/
theorem step_command_cases {s t : State} (h : step s = .next t) :
    (∃ agent, t = { s with host := agent }) ∨
    (∃ agent, t = { raise .illegal (beginCommand s) with host := agent }) ∨
    ∃ i rest u agent, NextWord s (encode i) ∧ CommandEnd i (setPending rest s) u ∧ t = { u with host := agent } := by
  rcases step_block_cases h with unchanged | ⟨w, rest, u, agent, next, run, rfl⟩
  · exact .inl unchanged
  · rcases runWord_cases run with ⟨i, decoded, hexec⟩ | ⟨-, rfl⟩
    · rw [← encode_of_decode decoded] at next
      exact .inr (.inr ⟨i, rest, u, agent, next, commandEnd_of_exec hexec, rfl⟩)
    · exact .inr (.inl ⟨agent, rfl⟩)

/-- Settles O58: of all ends of a command only `IDCHK`'s two full reads write `IDST`, and the one that read another byte
writes MISMATCH. -/
theorem onlyIdchkLeavesMismatch : Obligations.OnlyIdchkLeavesMismatch := by
  unfold Obligations.OnlyIdchkLeavesMismatch
  intro s t mismatch h leaves
  rcases step_command_cases h with ⟨_, rfl⟩ | ⟨_, rfl⟩ | ⟨i, rest, u, _, next, hend, rfl⟩
  · exact absurd mismatch leaves
  · exact absurd mismatch leaves
  · cases hend with
    | identityExpected => exact ⟨rfl, rfl, rfl, next⟩
    | identityOther => exact absurd rfl leaves
    | _ => exact absurd mismatch (by simpa using leaves)

/-- Settles O59: of all ends of a command only `LDCAL`'s whole load writes the Store. -/
theorem onlyLdcalWritesTheStore : Obligations.OnlyLdcalWritesTheStore := by
  unfold Obligations.OnlyLdcalWritesTheStore
  intro s t h changed
  rcases step_command_cases h with ⟨_, rfl⟩ | ⟨_, rfl⟩ | ⟨i, rest, u, _, next, hend, rfl⟩
  · exact absurd rfl changed
  · exact absurd rfl changed
  · cases hend with
    | calibrationLoaded => exact ⟨rfl, rfl, rfl, next⟩
    | _ => exact absurd (by simp) changed

/-! ### The host register map (10_state.md R37, R38) -/

theorem readRegister_of_none {α : Type} {value : α → HostValue} {register : Option α} (bottom : register = none) :
    readRegister value register = .error .hostReadBottom := by
  rw [bottom, readRegister]

theorem readRegister_of_some {α : Type} {value : α → HostValue} {register : Option α} {v : α}
    (held : register = some v) : readRegister value register = .ok (value v) := by
  rw [held, readRegister]

theorem hostRead_calibration_none {s : State} (bottom : s.cal = none) {index : Byte} (lo : 0x10#8 ≤ index)
    (hi : index ≤ 0x21#8) : hostRead s index = .error .hostReadBottom := by
  rw [BitVec.le_def] at lo hi
  unfold hostRead
  rw [bottom]
  generalize index.toNat = n at lo hi
  simp only [BitVec.toNat_ofNat] at lo hi
  interval_cases n <;> rfl

theorem hostRead_unmapped (s : State) {index : Byte}
    (h : (0x0A ≤ index.toNat ∧ index.toNat ≤ 0x0F) ∨ 0x22 ≤ index.toNat) :
    hostRead s index = .error .hostReadUnmapped := by
  unfold hostRead
  split
  case h_29 => rfl
  all_goals omega

/-- The three raw registers are written together, so they hold no value together. -/
theorem hostRead_raw_none {s : State} (bottom : s.raw = none) :
    ∀ index ∈ [0x06#8, 0x07#8, 0x08#8], hostRead s index = .error .hostReadBottom := by
  simp only [List.forall_mem_cons]
  exact ⟨readRegister_of_none bottom, readRegister_of_none bottom, readRegister_of_none bottom, List.forall_mem_nil _⟩

/-- Settles O18: at each mapped index but that of `STATUS` the map reads one register. -/
theorem hostRegisterMap : Obligations.HostRegisterMap := by
  unfold Obligations.HostRegisterMap
  intro s
  refine ⟨rfl, rfl, readRegister_of_none, fun _ => readRegister_of_some, readRegister_of_none,
    fun _ => readRegister_of_some, readRegister_of_none, fun _ => readRegister_of_some, readRegister_of_none,
    fun _ => readRegister_of_some, hostRead_raw_none, fun r held => ?raw, readRegister_of_none,
    fun _ => readRegister_of_some, fun bottom _ => hostRead_calibration_none bottom, fun c held => ?calibration,
    fun _ lo hi => hostRead_unmapped s (.inl ⟨lo, hi⟩), fun _ lo => hostRead_unmapped s (.inr lo)⟩
  case raw => exact ⟨readRegister_of_some held, readRegister_of_some held, readRegister_of_some held⟩
  case calibration => and_intros <;> exact readRegister_of_some held

/-! ### `STATUS` (10_state.md R31) -/

/-- `statusWord`'s body with its width as the sum of its parts, as the lemmas on `++` have it. -/
theorem statusWord_eq_cast (st : Status) :
    statusWord st = BitVec.cast (by decide : 4 + 4 + 1 + 1 + 1 + 1 + 1 + 1 + 2 = 16)
      (0#4 ++ errCode st.err ++ 0#1 ++ BitVec.ofBool st.ovf ++ BitVec.ofBool st.degen ++ BitVec.ofBool st.ftValid ++
        BitVec.ofBool st.rawValid ++ BitVec.ofBool st.calValid ++ idCode st.idst) := rfl

theorem statusWord_extract_idst (st : Status) : (statusWord st).extractLsb' 0 2 = idCode st.idst :=
  BitVec.extractLsb'_append_eq_right

theorem statusWord_extract_err (st : Status) : (statusWord st).extractLsb' 8 4 = errCode st.err := by
  simp (disch := decide) only [statusWord_eq_cast, BitVec.extractLsb'_cast, BitVec.extractLsb'_append_eq_of_le,
    Nat.reduceSub, BitVec.extractLsb'_append_eq_right, -Nat.reduceAdd]

theorem statusWord_extract_reserved (st : Status) : (statusWord st).extractLsb' 12 4 = 0#4 := by
  simp (disch := decide) only [statusWord_eq_cast, BitVec.extractLsb'_cast, BitVec.extractLsb'_append_eq_of_le,
    Nat.reduceSub, BitVec.extractLsb'_eq_self, -Nat.reduceAdd]

theorem statusWord_flag_bits (st : Status) :
    (statusWord st).getLsbD 2 = st.calValid ∧ (statusWord st).getLsbD 3 = st.rawValid ∧
      (statusWord st).getLsbD 4 = st.ftValid ∧ (statusWord st).getLsbD 5 = st.degen ∧
      (statusWord st).getLsbD 6 = st.ovf ∧ (statusWord st).getLsbD 7 = false := by
  simp only [statusWord_eq_cast, BitVec.getLsbD_cast, BitVec.getLsbD_append, Nat.reduceLT, Nat.reduceSub,
    BitVec.getLsbD_ofBool, -Nat.reduceAdd]
  simp

/-- Settles O23: field by field. -/
theorem statusWordLayout : Obligations.StatusWordLayout := by
  unfold Obligations.StatusWordLayout
  intro st
  obtain ⟨calValid, rawValid, ftValid, degen, ovf, reserved⟩ := statusWord_flag_bits st
  exact ⟨statusWord_extract_idst st, calValid, rawValid, ftValid, degen, ovf, reserved, statusWord_extract_err st,
    statusWord_extract_reserved st⟩

end Sys2Proof.Proofs

/-! # The transport (20_memory.md): what a burst uses, what a command asks for, and where a short read stops it -/

namespace Sys2Proof.Proofs

open Sys2Proof.Machine Sys2Proof.Safety

/-- Settles O32: `takeBurst` gives none exactly on a shorter answer, and otherwise the start of the answer. -/
theorem burstUsesFirstBytesOrNone : Obligations.BurstUsesFirstBytesOrNone := by
  unfold Obligations.BurstUsesFirstBytesOrNone
  intro n bs
  refine ⟨(takeBurst_eq_none_iff n bs).2, fun full => ?_⟩
  obtain ⟨v, used⟩ := takeBurst_of_le full
  exact ⟨v, used, takeBurst_toList used⟩

/-! ### The bursts a command asked for (20_memory.md R46) -/

@[simp] theorem started_bus (i : Instr) (n : Nat) (s : State) :
    (started i n s).bus =
      { replies := s.bus.replies.drop ((burstsOf s.params i).take n).length
        requests := s.bus.requests ++ (burstsOf s.params i).take n } := rfl

theorem burstsOf_length_le (p : Params) (i : Instr) : (burstsOf p i).length ≤ 3 := by
  cases i <;> simp [burstsOf]

/-- Settles O33: each end of a command is after some of its bursts, and an end without an error after all of them. -/
theorem burstsAreThoseOfTheTable : Obligations.BurstsAreThoseOfTheTable := by
  unfold Obligations.BurstsAreThoseOfTheTable
  intro i s t h
  have three := burstsOf_length_le s.params i
  cases commandEnd_of_exec h with
  | refused error => exact ⟨0, by simp, fun ok => absurd ok error⟩
  | identityShort | identityExpected | identityOther => exact ⟨1, by simp [burstsOf], fun _ => le_rfl⟩
  | @calibrationShort _ n | @rawShort _ _ n => exact ⟨n, by simp, nofun⟩
  | calibrationLoaded | rawStored | measured => exact ⟨3, by simp, fun _ => three⟩
  | temperature | pressure | humidity => exact ⟨0, by simp, fun _ => le_rfl⟩

/-! ### The transport is only read (20_memory.md R42, R45) -/

/-- From `s` to `t` answers were taken and requests added, and the parameters stayed. -/
def ReadsTransport (s t : State) : Prop :=
  t.params = s.params ∧ s.bus.requests <+: t.bus.requests ∧ t.bus.replies <:+ s.bus.replies ∧ s.draws ≤ t.draws

theorem ReadsTransport.refl (s : State) : ReadsTransport s s :=
  ⟨rfl, List.prefix_rfl, List.suffix_rfl, le_rfl⟩

theorem ReadsTransport.trans {s t u : State} (h : ReadsTransport s t) (k : ReadsTransport t u) : ReadsTransport s u := by
  obtain ⟨params, requests, replies, draws⟩ := h
  obtain ⟨params', requests', replies', draws'⟩ := k
  exact ⟨params'.trans params, requests.trans requests', replies'.trans replies, draws.trans draws'⟩

/-- A write that leaves the parameters and the transport alone, and draws a free value or none. -/
theorem ReadsTransport.of_draw {free : Bool} {s t : State} (params : t.params = s.params) (bus : t.bus = s.bus)
    (draws : t.draws = if free then s.draws + 1 else s.draws) : ReadsTransport s t := by
  refine ⟨params, bus ▸ List.prefix_rfl, bus ▸ List.suffix_rfl, ?_⟩
  rw [draws]
  split <;> omega

theorem readsTransport_afterBursts (bursts : List BurstRequest) (s : State) :
    ReadsTransport s (afterBursts bursts s) :=
  ⟨rfl, List.prefix_append _ _, List.drop_suffix _ _, Nat.le_add_right _ _⟩

theorem readsTransport_started (i : Instr) (n : Nat) (s : State) : ReadsTransport s (started i n s) :=
  readsTransport_afterBursts _ (setFtValid false (beginCommand s))

theorem readsTransport_writeTemperature (x : TemperatureResult) (s : State) : ReadsTransport s (writeTemperature x s) :=
  .of_draw (writeTemperature_params x s) (writeTemperature_bus x s) (writeTemperature_draws x s)

theorem readsTransport_writePressure (y : PressureResult) (s : State) : ReadsTransport s (writePressure y s) :=
  .of_draw (writePressure_params y s) (writePressure_bus y s) (writePressure_draws y s)

theorem readsTransport_writeHumidity (z : HumidityResult) (s : State) : ReadsTransport s (writeHumidity z s) :=
  .of_draw (writeHumidity_params z s) (writeHumidity_bus z s) (writeHumidity_draws z s)

theorem readsTransport_writeAll (x : TemperatureResult) (y : PressureResult) (z : HumidityResult) (s : State) :
    ReadsTransport s (writeAll x y z s) :=
  ((readsTransport_writeTemperature x s).trans (readsTransport_writePressure y _)).trans
    (readsTransport_writeHumidity z _)

/-- The writes of `STATUS` and of the other registers do not show in `ReadsTransport`: each end is its bursts, or its
compensation writes, or both. -/
theorem readsTransport_of_commandEnd {i : Instr} {s t : State} (h : CommandEnd i s t) : ReadsTransport s t := by
  cases h with
  | refused => exact .refl s
  | identityShort | identityExpected | identityOther => exact readsTransport_afterBursts _ s
  | calibrationShort | calibrationLoaded | rawShort | rawStored => exact readsTransport_started ..
  | temperature => exact readsTransport_writeTemperature _ (beginCommand s)
  | pressure => exact readsTransport_writePressure _ (beginCommand s)
  | humidity => exact readsTransport_writeHumidity _ (beginCommand s)
  | @measured i _ _ r =>
    have sample : ReadsTransport s (writeRaw r (started i 3 s)) := readsTransport_started i 3 s
    exact sample.trans (readsTransport_writeAll ..)

/-- Settles O35: every command only reads the transport, and neither an illegal word nor the Host touches it. -/
theorem stepOnlyReadsTheTransport : Obligations.StepOnlyReadsTheTransport := by
  unfold Obligations.StepOnlyReadsTheTransport
  intro s t h
  exact step_keeps (P := ReadsTransport s) (fun _ _ hs => hs) (fun _ hs => hs)
    (fun _ _ _ hs command => hs.trans (readsTransport_of_commandEnd (commandEnd_of_exec command)))
    (ReadsTransport.refl s) h

/-! ### The first short answer (20_memory.md R43, R44) -/

/-- Of the answers to `bursts`, number `k` is the first short one. -/
def ShortAt (bursts : List BurstRequest) (k : Nat) (s : State) : Prop :=
  (∀ j a, j < k → bursts[j]? = some a → a.len ≤ (coming s j).length) ∧
    ∃ b, bursts[k]? = some b ∧ (coming s k).length < b.len

theorem shortAt_one {b : BurstRequest} {k : Nat} {s : State} (h : ShortAt [b] k s) :
    k = 0 ∧ takeBurst b.len (coming s 0) = none := by
  obtain ⟨-, _, at_k, short⟩ := h
  cases k with
  | zero => cases at_k; exact ⟨rfl, (takeBurst_eq_none_iff _ _).2 short⟩
  | succ => cases at_k

/-- Of three bursts, those before the short one are full. -/
theorem shortAt_three {a b c : BurstRequest} {k : Nat} {s : State} (h : ShortAt [a, b, c] k s) :
    (k = 0 ∧ takeBurst a.len (coming s 0) = none) ∨
    (k = 1 ∧ ∃ v, takeBurst a.len (coming s 0) = some v ∧ takeBurst b.len (coming s 1) = none) ∨
    (k = 2 ∧ ∃ v w, takeBurst a.len (coming s 0) = some v ∧ takeBurst b.len (coming s 1) = some w ∧
      takeBurst c.len (coming s 2) = none) := by
  obtain ⟨full, _, at_k, short⟩ := h
  rw [← takeBurst_eq_none_iff] at short
  match k, at_k with
  | 0, rfl => exact .inl ⟨rfl, short⟩
  | 1, rfl =>
    obtain ⟨v, first⟩ := takeBurst_of_le (full 0 a (by decide) rfl)
    exact .inr (.inl ⟨rfl, v, first, short⟩)
  | 2, rfl =>
    obtain ⟨v, first⟩ := takeBurst_of_le (full 0 a (by decide) rfl)
    obtain ⟨w, second⟩ := takeBurst_of_le (full 1 b (by decide) rfl)
    exact .inr (.inr ⟨rfl, v, w, first, second, short⟩)

/-- The 8-byte raw read, at its short answer; `MEAS` has the bursts of `LDRAW`. -/
theorem sampleSingle_of_shortAt {k : Nat} {s : State} (h : ShortAt (burstsOf s.params .ldraw) k s) :
    sampleSingle (setFtValid false (beginCommand s)) = (none, started .ldraw (k + 1) s) := by
  obtain ⟨rfl, short⟩ := shortAt_one h
  rcases sampleSingle_cases (setFtValid false (beginCommand s)) with ⟨-, e⟩ | ⟨_, full, -⟩
  · rw [e, noteRequest_eq_afterBursts]; rfl
  · simp [short] at full

/-- The split raw read, at its short answer; `MEAS.S` has the bursts of `LDRAW.S`. -/
theorem sampleSplit_of_shortAt {k : Nat} {s : State} (h : ShortAt (burstsOf s.params .ldrawS) k s) :
    sampleSplit (setFtValid false (beginCommand s)) = (none, started .ldrawS (k + 1) s) := by
  have ends := sampleSplit_cases (setFtValid false (beginCommand s))
  rcases shortAt_three h with ⟨rfl, short⟩ | ⟨rfl, v, first, short⟩ | ⟨rfl, v, w, first, second, short⟩
  · simpa [short, noteRequest_eq_afterBursts, started, burstsOf] using ends
  · simpa [first, short, noteRequest_two, started, burstsOf] using ends
  · simpa [first, second, short, noteRequest_three, started, burstsOf] using ends

/-- `LDCAL`, at its short answer. -/
theorem execLdcal_of_shortAt {k : Nat} {s : State} (h : ShortAt (burstsOf s.params .ldcal) k s) :
    execLdcal s = .next (calibrationFailed (started .ldcal (k + 1) s)) := by
  have ends := execLdcal_cases s
  rcases shortAt_three h with ⟨rfl, short⟩ | ⟨rfl, v, first, short⟩ | ⟨rfl, v, w, first, second, short⟩
  · simpa [short, noteRequest_eq_afterBursts, started, burstsOf] using ends
  · simpa [first, short, noteRequest_two, started, burstsOf] using ends
  · simpa [first, second, short, noteRequest_three, started, burstsOf] using ends

/-- `IDCHK`, at its short answer. -/
theorem execIdchk_of_shortAt {k : Nat} {s : State} (h : ShortAt (burstsOf s.params .idchk) k s) :
    execIdchk s = .next (raise .transport (afterBursts ((burstsOf s.params .idchk).take (k + 1)) (beginCommand s))) := by
  obtain ⟨rfl, short⟩ := shortAt_one h
  rcases execIdchk_cases s with ⟨-, e⟩ | ⟨_, full, -⟩ | ⟨_, full, -⟩
  · rw [e, noteRequest_eq_afterBursts]; rfl
  · simp [short] at full
  · simp [short] at full

/-- The end of a command whose burst number `n - 1` is its first short one. -/
def stoppedShort (i : Instr) (n : Nat) (s : State) : State :=
  match i with
  | .idchk => raise .transport (afterBursts ((burstsOf s.params .idchk).take n) (beginCommand s))
  | .ldcal => calibrationFailed (started .ldcal n s)
  | _ => rawFailed (started i n s)

/-- A command that comes to its reads stops at the first short answer. -/
theorem exec_of_shortAt {i : Instr} {k : Nat} {s : State} (reaches : ReachesTransport i s)
    (h : ShortAt (burstsOf s.params i) k s) : exec i s = .next (stoppedShort i (k + 1) s) := by
  cases i <;> simp only [exec, stoppedShort]
  case idchk => exact execIdchk_of_shortAt h
  case ldcal => exact execLdcal_of_shortAt h
  case ldraw =>
    rcases execLdraw_cases s with ⟨mismatch, -⟩ | ⟨-, e⟩
    · exact absurd mismatch reaches
    · rw [e, sampleSingle_of_shortAt h]; rfl
  case ldrawS =>
    rcases execLdrawS_cases s with ⟨mismatch, -⟩ | ⟨-, e⟩
    · exact absurd mismatch reaches
    · rw [e, sampleSplit_of_shortAt h]; rfl
  case compt | compp | comph => exact reaches.elim
  case meas =>
    obtain ⟨identity, valid, store⟩ := reaches
    obtain ⟨c, cal⟩ := Option.ne_none_iff_exists'.1 store
    rw [execMeas_of_ready ⟨identity, valid, cal⟩, sampleSingle_of_shortAt h]; rfl
  case measS =>
    obtain ⟨identity, valid, store⟩ := reaches
    obtain ⟨c, cal⟩ := Option.ne_none_iff_exists'.1 store
    rw [execMeasS_of_ready ⟨identity, valid, cal⟩, sampleSplit_of_shortAt h]; rfl

theorem stoppedShort_bus (i : Instr) {n : Nat} {s : State} (le : n ≤ (burstsOf s.params i).length) :
    (stoppedShort i n s).bus =
      { replies := s.bus.replies.drop n, requests := s.bus.requests ++ (burstsOf s.params i).take n } := by
  have asked : ((burstsOf s.params i).take n).length = n := List.length_take_of_le le
  cases i <;> simp [stoppedShort, asked]

/-- Settles O34: the command stops in `stoppedShort`, which has written flags alone. -/
theorem shortReadStopsTheCommand : Obligations.ShortReadStopsTheCommand := by
  unfold Obligations.ShortReadStopsTheCommand
  intro i s k b reaches at_k full short
  obtain ⟨within, -⟩ := List.getElem?_eq_some_iff.1 at_k
  have bus := stoppedShort_bus i (n := k + 1) within
  refine ⟨stoppedShort i (k + 1) s, exec_of_shortAt reaches ⟨full, b, at_k, short⟩, ?_⟩
  rw [bus]
  cases i <;> simp [stoppedShort]

end Sys2Proof.Proofs

/-! # Encoding (30_encoding.md): the decoder and the opcode map, illegal words, pseudo-instructions, the assembler -/

namespace Sys2Proof.Proofs

open Sys2Proof.Machine Sys2Proof.Safety

/-! ### The decoder and the opcode map (R65, R69) -/

/-- The decoder on a row's own word: the row's command, or the rejection of the 8-byte forms without single burst. -/
theorem decode_encode (singleBurst : Bool) (i : Instr) :
    decode singleBurst (encode i) = if i.wellFormed singleBurst then .ok i else .error .noSingleBurst := by
  cases singleBurst <;> cases i <;> rfl

theorem decode_eq_ok_iff {singleBurst : Bool} {w : Byte} {i : Instr} :
    decode singleBurst w = .ok i ↔ i.wellFormed singleBurst = true ∧ encode i = w := by
  constructor
  · intro decoded
    have word := encode_of_decode decoded
    rw [← word, decode_encode] at decoded
    split at decoded
    · exact ⟨‹_›, word⟩
    · cases decoded
  · rintro ⟨present, rfl⟩
    rw [decode_encode, if_pos present]

/-- Settles O14: a word that decodes is its command's own word, and on that word the decoder only asks whether
the block has the command. -/
theorem decodeAndEncodeAgree : Obligations.DecodeAndEncodeAgree := by
  unfold Obligations.DecodeAndEncodeAgree
  exact fun _ _ _ => decode_eq_ok_iff

/-! ### Pseudo-instructions at run time (R71) -/

/-- A command word leaves the Host alone. -/
theorem runWord_host {w : Byte} {s t : State} (run : runWord w s = .next t) : t.host = s.host := by
  rcases runWord_cases run with ⟨i, -, hexec⟩ | ⟨-, rfl⟩
  · obtain ⟨-, host, -⟩ := commandsLeaveTheRestUnchanged i s t hexec
    exact host
  · rfl

theorem step_of_sequence {s : State} {w : Byte} {words : List Byte} {rest : List HostAction}
    (next : s.host.pending = .sequence (w :: words) :: rest) :
    step s = continueSequence words (runWord w (setPending rest s)) := by
  simp [step, hostStep, next]

theorem continueSequence_next (words : List Byte) (t : State) :
    continueSequence words (.next t) =
      .next (if t.status.err = .ok ∧ words ≠ [] then setPending (.sequence words :: t.host.pending) t else t) := by
  by_cases stops : words = [] ∨ t.status.err ≠ .ok
  · rw [continueSequence, if_pos stops, if_neg (by tauto)]
  · rw [continueSequence, if_neg stops, if_pos (by tauto)]

/-- Settles O20: the step looks at `ERR` after the first word, and that word's command left the Host's program alone. -/
theorem sequenceStopsAtTheFirstError : Obligations.SequenceStopsAtTheFirstError := by
  unfold Obligations.SequenceStopsAtTheFirstError
  intro s t w words rest next run
  have kept : t.host.pending = rest := by rw [runWord_host run]
  calc step s = continueSequence words (.next t) := by rw [step_of_sequence next, setPending, run]
    _ = _ := by rw [continueSequence_next, kept, setPending]

/-! ### Legal words (R63, R66) -/

theorem reservedField_toNat (w : Byte) : (reservedField w).toNat = w.toNat / 32 := by
  have := w.isLt
  simp [reservedField, Nat.shiftRight_eq_div_pow]
  omega

theorem opField_toNat (w : Byte) : (opField w).toNat = w.toNat % 16 := by
  simp [opField]

theorem splitField_eq_false_iff (w : Byte) : splitField w = false ↔ w.toNat / 16 % 2 = 0 := by
  simp [splitField, BitVec.getLsbD, Nat.testBit_eq_decide_div_mod_eq]

theorem readsSample_opField_iff (w : Byte) : readsSample (opField w) = true ↔ w.toNat % 16 ∈ [0x3, 0x7] := by
  simp [readsSample, ← BitVec.toNat_inj, opField_toNat]

/-- `legal` is the formula of R66 on the fields as numbers. -/
theorem legal_iff_formula (singleBurst : Bool) (w : Byte) :
    legal singleBurst w = true ↔
      w.toNat / 32 = 0 ∧ w.toNat % 16 ∈ [0x1, 0x2, 0x3, 0x4, 0x5, 0x6, 0x7] ∧
      (w.toNat / 16 % 2 = 0 ∨ w.toNat % 16 ∈ [0x3, 0x7]) ∧
      ¬(w.toNat / 16 % 2 = 0 ∧ w.toNat % 16 ∈ [0x3, 0x7] ∧ singleBurst = false) := by
  have reserved : reservedField w = 0#3 ↔ w.toNat / 32 = 0 := by
    rw [← BitVec.toNat_inj, reservedField_toNat]; rfl
  have op : 1 ≤ w.toNat % 16 ∧ w.toNat % 16 ≤ 7 ↔ w.toNat % 16 ∈ [0x1, 0x2, 0x3, 0x4, 0x5, 0x6, 0x7] := by
    simp only [List.mem_cons, List.not_mem_nil, or_false]; omega
  rw [← reserved, ← op, ← splitField_eq_false_iff, ← readsSample_opField_iff, ← opField_toNat]
  simp [legal, and_assoc, imp_iff_not_or, or_assoc]

/-- Both lists of R66, by the whole table of bytes. -/
theorem legal_iff_mem_lists :
    ∀ w : Byte, (legal true w = true ↔ w ∈ [0x01#8, 0x02#8, 0x03#8, 0x04#8, 0x05#8, 0x06#8, 0x07#8, 0x13#8, 0x17#8]) ∧
      (legal false w = true ↔ w ∈ [0x01#8, 0x02#8, 0x04#8, 0x05#8, 0x06#8, 0x13#8, 0x17#8]) := by
  decide

/-- Settles O12: the formula field by field, the lists by the table of bytes. -/
theorem legalWordsAreTheNine : Obligations.LegalWordsAreTheNine := by
  unfold Obligations.LegalWordsAreTheNine
  exact fun singleBurst w => ⟨legal_iff_formula singleBurst w, legal_iff_mem_lists w⟩

/-- The decoder accepts exactly the legal words: checked on all 256 words, for both values of `SINGLE_BURST`. -/
theorem legal_eq_isSome_decode :
    ∀ (singleBurst : Bool) (w : Byte), legal singleBurst w = (decode singleBurst w).toOption.isSome := by
  decide

theorem decode_of_legal {singleBurst : Bool} {w : Byte} (lawful : legal singleBurst w = true) :
    ∃ i, decode singleBurst w = .ok i := by
  rw [legal_eq_isSome_decode] at lawful
  cases h : decode singleBurst w with
  | ok i => exact ⟨i, rfl⟩
  | error why => rw [h] at lawful; cases lawful

theorem decode_of_not_legal {singleBurst : Bool} {w : Byte} (illegal : legal singleBurst w = false) :
    ∃ why, decode singleBurst w = .error why := by
  rw [legal_eq_isSome_decode] at illegal
  cases h : decode singleBurst w with
  | ok i => rw [h] at illegal; cases illegal
  | error why => exact ⟨why, rfl⟩

/-- Settles O13: a legal word decodes, and what decodes is the row with that word. -/
theorem decoderFollowsTheOpcodeMap : Obligations.DecoderFollowsTheOpcodeMap := by
  unfold Obligations.DecoderFollowsTheOpcodeMap
  intro singleBurst w
  split
  case isTrue lawful =>
    obtain ⟨i, decoded⟩ := decode_of_legal lawful
    exact ⟨(encode i, i), by cases i <;> decide, encode_of_decode decoded, decoded⟩
  case isFalse illegal => exact decode_of_not_legal (Bool.eq_false_of_not_eq_true illegal)

/-- Settles O15: each word evaluated. -/
theorem tableWordsDecodeToTheirRows : Obligations.TableWordsDecodeToTheirRows := by
  unfold Obligations.TableWordsDecodeToTheirRows
  decide

/-! ### Illegal words (R67) -/

theorem runWord_of_not_legal {s : State} {w : Byte} (illegal : legal s.params.singleBurst w = false) :
    runWord w s = .next (raise .illegal (beginCommand s)) := by
  obtain ⟨why, rejected⟩ := decode_of_not_legal illegal
  rw [runWord, rejected]
  rfl

/-- Settles O17: the decoder rejects the word, and the clears and `raise` write `STATUS` alone. -/
theorem illegalWordOnlySetsErr : Obligations.IllegalWordOnlySetsErr := by
  unfold Obligations.IllegalWordOnlySetsErr
  refine ⟨fun s w rest next illegal => ?_, by decide⟩
  rw [step_of_write next, runWord_of_not_legal (s := setPending rest s) illegal]
  rfl

/-! ### The assembler (R70, R71) -/

/-- No letter becomes the comment mark in capitals. -/
theorem toUpper_eq_semicolon_iff (c : Char) : c.toUpper = ';' ↔ c = ';' := by
  constructor
  · intro mark
    have letter : c.isAlpha = false := by rw [← Char.isAlpha_toUpper_eq_isAlpha, mark]; rfl
    have small : ¬ c.isLower = true := fun h => by simp [Char.isAlpha, h] at letter
    rwa [Char.toUpper_eq_of_not_isLower small] at mark
  · rintro rfl; rfl

/-- Cutting the comment and capitals commute. -/
theorem map_toUpper_takeWhile_comment (line : List Char) :
    (line.takeWhile (· ≠ ';')).map Char.toUpper = (line.map Char.toUpper).takeWhile (· ≠ ';') := by
  rw [List.takeWhile_map]
  congr 2
  funext c
  simp [toUpper_eq_semicolon_iff]

/-- A line is read through its capitals alone. -/
theorem assembleLine_congr {line line' : List Char} (same : line.map Char.toUpper = line'.map Char.toUpper) :
    assembleLine line = assembleLine line' := by
  unfold assembleLine
  rw [map_toUpper_takeWhile_comment, map_toUpper_takeWhile_comment, same]

/-- Settles O21: each row of the two tables evaluated, and a line read through its capitals. -/
theorem assemblerLinesAndPseudoInstructions : Obligations.AssemblerLinesAndPseudoInstructions := by
  unfold Obligations.AssemblerLinesAndPseudoInstructions
  refine ⟨?mnemonics, ?pseudo, ?comment, ?unknown, fun _ _ => assembleLine_congr⟩
  case mnemonics => decide
  case pseudo => decide
  case comment => decide
  case unknown => decide

end Sys2Proof.Proofs

/-! # Calibration (40_calibration.md): the extraction functions, `DecodeCal`, and the commands `IDCHK` and `LDCAL` -/

namespace Sys2Proof.Proofs

open Sys2Proof.Machine Sys2Proof.Safety

/-! ### Bytes and nibbles put together (R72, R73, R78, R79) -/

/-- Two fields put together, as a number. -/
theorem append_toNat {m n : Nat} (hi : BitVec m) (lo : BitVec n) : (hi ++ lo).toNat = hi.toNat * 2 ^ n + lo.toNat := by
  rw [BitVec.toNat_append, ← Nat.shiftLeft_add_eq_or_of_lt lo.isLt, Nat.shiftLeft_eq]

theorem u16le_toNat {n : Nat} (b : Vector Byte n) (i : Nat) (h : i + 1 < n) :
    (u16le b i h).toNat = b[i].toNat + 256 * b[i + 1].toNat := by
  rw [u16le, append_toNat]
  omega

theorem s16le_toInt {n : Nat} (b : Vector Byte n) (i : Nat) (h : i + 1 < n) :
    (s16le b i h).toInt =
      if b[i + 1].toNat < 128 then (b[i].toNat + 256 * b[i + 1].toNat : Int)
      else (b[i].toNat + 256 * b[i + 1].toNat : Int) - 65536 := by
  have lo := b[i].isLt
  rw [s16le, BitVec.toInt_eq_toNat_cond, u16le_toNat]
  split <;> split <;> omega

/-- Settles O36: the value of the two bytes, and the sign that the higher one gives. -/
theorem wordsAreLittleEndian : Obligations.WordsAreLittleEndian := by
  unfold Obligations.WordsAreLittleEndian
  exact fun _ b i h => ⟨u16le_toNat b i h, s16le_toInt b i h⟩

theorem lowNibble_toNat (b : Byte) : (lowNibble b).toNat = b.toNat % 16 := by
  simp [lowNibble]

theorem highNibble_toNat (b : Byte) : (highNibble b).toNat = b.toNat / 16 := by
  have := b.isLt
  simp [highNibble, Nat.shiftRight_eq_div_pow]
  omega

/-- A 12-bit field of a byte over a nibble, under `H45_SIGNED`. -/
theorem extend12_append_toInt_signed (b : Byte) (nibble : BitVec 4) :
    (extend12 true (b ++ nibble)).toInt =
      if b.toNat < 128 then (b.toNat * 16 + nibble.toNat : Int) else (b.toNat * 16 + nibble.toNat : Int) - 4096 := by
  have := nibble.isLt
  rw [extend12, if_pos rfl, BitVec.toInt_signExtend_of_le (by decide), BitVec.toInt_eq_toNat_cond, append_toNat]
  split <;> split <;> omega

theorem extend12_append_toInt_unsigned (b : Byte) (nibble : BitVec 4) :
    (extend12 false (b ++ nibble)).toInt = b.toNat * 16 + nibble.toNat := by
  rw [extend12, if_neg nofun, ← toNat_eq_toInt_setWidth _ (by decide), append_toNat]
  push_cast
  rfl

/-- Settles O37: both constants are a byte over a nibble; the rules' numbers are evaluated. -/
theorem nibblePackedConstants : Obligations.NibblePackedConstants := by
  unfold Obligations.NibblePackedConstants
  refine ⟨fun h => ?fields, by decide⟩
  have b3 := h[3].isLt
  have b4 := h[4].isLt
  have b5 := h[5].isLt
  simp only [decodeH4, decodeH5, extend12_append_toInt_signed, extend12_append_toInt_unsigned, lowNibble_toNat,
    highNibble_toNat]
  refine ⟨by omega, by omega, ?_⟩
  push_cast
  exact ⟨rfl, rfl, rfl, rfl⟩

/-! ### The constants of a burst (R74 to R77, R80, R81) -/

/-- The twelve words of the 24-byte burst, in their order. -/
def tpWords (c : Calibration) : List (BitVec 16) :=
  [c.t1, c.t2, c.t3, c.p1, c.p2, c.p3, c.p4, c.p5, c.p6, c.p7, c.p8, c.p9]

/-- Word `k` lies at offset `2k`. -/
theorem tpWords_decodeCal (signed : Bool) (tp : Vector Byte 24) (h1 : Vector Byte 1) (h : Vector Byte 7) :
    tpWords (decodeCal signed tp h1 h) = List.ofFn fun k : Fin 12 => u16le tp (2 * k) (by omega) := rfl

/-- Settles O38: the twelve words by their offset, the humidity constants by their own line of `decodeCal`. -/
theorem eachConstantFromItsBytes : Obligations.EachConstantFromItsBytes := by
  unfold Obligations.EachConstantFromItsBytes
  intro signed tp h1 h
  refine ⟨fun k hk => ?_, rfl, u16le_toNat h 0 _, rfl, rfl, rfl, rfl⟩
  have word : (tpWords (decodeCal signed tp h1 h))[k]'hk = u16le tp (2 * k) (by omega) :=
    (List.getElem_of_eq (tpWords_decodeCal signed tp h1 h) hk).trans (List.getElem_ofFn _)
  exact (congrArg BitVec.toNat word).trans (u16le_toNat tp (2 * k) _)

/-! ### The place of the first short answer -/

theorem shortAt_first {a : BurstRequest} {more : List BurstRequest} {s : State} (short : (coming s 0).length < a.len) :
    ShortAt (a :: more) 0 s :=
  ⟨nofun, a, rfl, short⟩

theorem shortAt_second {a b : BurstRequest} {more : List BurstRequest} {s : State}
    (full : a.len ≤ (coming s 0).length) (short : (coming s 1).length < b.len) : ShortAt (a :: b :: more) 1 s := by
  refine ⟨fun j c before at_j => ?_, b, rfl, short⟩
  obtain rfl : j = 0 := by omega
  cases at_j
  exact full

theorem shortAt_third {a b c : BurstRequest} {more : List BurstRequest} {s : State}
    (full₀ : a.len ≤ (coming s 0).length) (full₁ : b.len ≤ (coming s 1).length)
    (short : (coming s 2).length < c.len) : ShortAt (a :: b :: c :: more) 2 s := by
  refine ⟨fun j d before at_j => ?_, c, rfl, short⟩
  obtain rfl | rfl : j = 0 ∨ j = 1 := by omega
  · cases at_j; exact full₀
  · cases at_j; exact full₁

/-! ### `IDCHK` (R82) -/

/-- `IDCHK` on an answer with a first byte. -/
theorem execIdchk_of_byte {s : State} {b : Byte} {more : List Byte} (answer : coming s 0 = b :: more) :
    execIdchk s = .next (checkIdentity (some #v[b]) (afterBursts (burstsOf s.params .idchk) (beginCommand s))) := by
  have next : nextReply (beginCommand s) = b :: more := (nextReply_eq_coming s).trans answer
  simp only [execIdchk, readBurst_eq, next, takeBurst_one, noteRequest_eq_afterBursts]
  rfl

/-- Settles O40: an empty answer is the short read of the command's one burst; otherwise the first byte decides. -/
theorem idchkRecordsTheIdentity : Obligations.IdchkRecordsTheIdentity := by
  unfold Obligations.IdchkRecordsTheIdentity
  refine ⟨rfl, fun s => ⟨fun empty => ?short, fun b more answer => ?byte⟩, by decide, by decide⟩
  case short => exact exec_of_shortAt (i := .idchk) trivial (shortAt_first (by simp [empty]))
  case byte =>
    rw [exec, execIdchk_of_byte answer, checkIdentity]
    rfl

/-! ### `LDCAL` (R83) -/

/-- `LDCAL` on three full answers. -/
theorem execLdcal_of_full {s : State} {tp : Vector Byte 24} {h1 : Vector Byte 1} {h : Vector Byte 7}
    (first : takeBurst 24 (coming s 0) = some tp) (second : takeBurst 1 (coming s 1) = some h1)
    (third : takeBurst 7 (coming s 2) = some h) :
    execLdcal s = .next (setCalValid true
      { started .ldcal 3 s with cal := some (decodeCal s.params.h45Signed tp h1 h) }) := by
  simpa [first, second, third, noteRequest_three, started, burstsOf] using execLdcal_cases s

/-- Settles O41: the loaded end of `LDCAL`, its writes of `STATUS` taken together. -/
theorem ldcalLoadsTheWholeStore : Obligations.LdcalLoadsTheWholeStore := by
  unfold Obligations.LdcalLoadsTheWholeStore
  exact fun _ _ _ _ first second third => execLdcal_of_full first second third

/-- Settles O42: the three cases are the three places of the first short answer. -/
theorem ldcalShortReadLeavesTheStore : Obligations.LdcalShortReadLeavesTheStore := by
  unfold Obligations.LdcalShortReadLeavesTheStore
  intro s
  refine ⟨fun short => ?first, fun full short => ?second, fun full₀ full₁ short => ?third⟩
  case first => exact exec_of_shortAt (i := .ldcal) trivial (shortAt_first short)
  case second => exact exec_of_shortAt (i := .ldcal) trivial (shortAt_second full short)
  case third => exact exec_of_shortAt (i := .ldcal) trivial (shortAt_third full₀ full₁ short)

end Sys2Proof.Proofs

/-! # The raw sample (41_raw_sample.md): `Pack20`, `Pack16`, and the commands `LDRAW` and `LDRAW.S` -/

namespace Sys2Proof.Proofs

open Sys2Proof.Machine Sys2Proof.Safety

/-! ### Packing (R84, R85) -/

theorem pack20_toNat (msb lsb xlsb : Byte) :
    (pack20 msb lsb xlsb).toNat = msb.toNat * 4096 + lsb.toNat * 16 + xlsb.toNat / 16 := by
  rw [pack20, append_toNat, append_toNat, highNibble_toNat]
  omega

theorem pack16_toNat (msb lsb : Byte) : (pack16 msb lsb).toNat = msb.toNat * 256 + lsb.toNat :=
  append_toNat msb lsb

/-- Settles O39: the packed number shows `xlsb` by its high nibble alone; the rules' numbers are evaluated. -/
theorem rawPackingIsMsbFirst : Obligations.RawPackingIsMsbFirst := by
  unfold Obligations.RawPackingIsMsbFirst
  refine ⟨fun msb lsb xlsb => ⟨pack20_toNat msb lsb xlsb, pack16_toNat msb lsb, fun xlsb' sameNibble => ?_⟩, by decide⟩
  apply BitVec.eq_of_toNat_eq
  rw [pack20_toNat, pack20_toNat, sameNibble]

/-! ### The raw reads on full answers -/

/-- The 8-byte raw read, on a full answer; `MEAS` has the burst of `LDRAW`. -/
theorem sampleSingle_of_full {s : State} {d : Vector Byte 8} (full : takeBurst 8 (coming s 0) = some d) :
    sampleSingle (setFtValid false (beginCommand s)) = (some (packSingle d), started .ldraw 1 s) := by
  simpa [full, noteRequest_eq_afterBursts, started, burstsOf] using
    sampleSingle_cases (setFtValid false (beginCommand s))

/-- The split raw read, on three full answers; `MEAS.S` has the bursts of `LDRAW.S`. -/
theorem sampleSplit_of_full {s : State} {dp dt : Vector Byte 3} {dh : Vector Byte 2}
    (first : takeBurst 3 (coming s 0) = some dp) (second : takeBurst 3 (coming s 1) = some dt)
    (third : takeBurst 2 (coming s 2) = some dh) :
    sampleSplit (setFtValid false (beginCommand s)) = (some (packSplit dp dt dh), started .ldrawS 3 s) := by
  simpa [first, second, third, noteRequest_three, started, burstsOf] using
    sampleSplit_cases (setFtValid false (beginCommand s))

/-! ### `LDRAW` (R86) and `LDRAW.S` (R87) -/

theorem execLdraw_of_reached {s : State} (reaches : s.status.idst ≠ .mismatch) :
    execLdraw s = .next (storeSample (sampleSingle (setFtValid false (beginCommand s)))) :=
  ((execLdraw_cases s).resolve_left fun ⟨mismatch, _⟩ => reaches mismatch).2

theorem execLdrawS_of_reached {s : State} (reaches : s.status.idst ≠ .mismatch) :
    execLdrawS s = .next (storeSample (sampleSplit (setFtValid false (beginCommand s)))) :=
  ((execLdrawS_cases s).resolve_left fun ⟨mismatch, _⟩ => reaches mismatch).2

/-- Settles O43: the refusal, the short answer to the one burst, and the full one. -/
theorem ldrawReadsOneBurst : Obligations.LdrawReadsOneBurst := by
  unfold Obligations.LdrawReadsOneBurst
  refine ⟨rfl, fun s => ⟨fun mismatch => ?refused, fun reaches short => ?short,
    fun d0 d1 d2 d3 d4 d5 d6 d7 more reaches answer => ?full⟩⟩
  case refused => exact mismatchRefusesEveryMeasurement .ldraw s mismatch (by decide)
  case short => exact exec_of_shortAt (i := .ldraw) reaches (shortAt_first short)
  case full =>
    have full : takeBurst 8 (coming s 0) = some #v[d0, d1, d2, d3, d4, d5, d6, d7] := by rw [answer, takeBurst_eight]
    rw [exec, execLdraw_of_reached reaches, sampleSingle_of_full full]
    rfl

/-- Settles O44: the refusal, the three places of the first short answer, and three full ones. -/
theorem ldrawSplitReadsThreeBursts : Obligations.LdrawSplitReadsThreeBursts := by
  unfold Obligations.LdrawSplitReadsThreeBursts
  refine ⟨rfl, fun s => ⟨fun mismatch => ?refused, fun reaches => ⟨fun short => ?first, fun full short => ?second,
    fun full₀ full₁ short => ?third, fun p0 p1 p2 t0 t1 t2 h0 h1 more0 more1 more2 answer₀ answer₁ answer₂ => ?full⟩⟩⟩
  case refused => exact mismatchRefusesEveryMeasurement .ldrawS s mismatch (by decide)
  case first => exact exec_of_shortAt (i := .ldrawS) reaches (shortAt_first short)
  case second => exact exec_of_shortAt (i := .ldrawS) reaches (shortAt_second full short)
  case third => exact exec_of_shortAt (i := .ldrawS) reaches (shortAt_third full₀ full₁ short)
  case full =>
    have pressure : takeBurst 3 (coming s 0) = some #v[p0, p1, p2] := by rw [answer₀, takeBurst_three]
    have temperature : takeBurst 3 (coming s 1) = some #v[t0, t1, t2] := by rw [answer₁, takeBurst_three]
    have humidity : takeBurst 2 (coming s 2) = some #v[h0, h1] := by rw [answer₂, takeBurst_two]
    rw [exec, execLdrawS_of_reached reaches, sampleSplit_of_full pressure temperature humidity]
    rfl

end Sys2Proof.Proofs

/-! # Compensation (42_compensation.md): the functions as machine arithmetic, and `COMPT`, `COMPP`, `COMPH` -/

namespace Sys2Proof.Proofs

open Sys2Proof.Machine Sys2Proof.Safety

/-! ### A primitive's value as a word (00_scope.md R10 to R12)

Each lemma takes a narrowed result to a word and the operands, whatever they are, to words. -/

theorem wrap_eq_toInt_ofInt (n : Nat) (x : Int) : wrap n x = (BitVec.ofInt n x).toInt :=
  (BitVec.toInt_ofInt x).symm

theorem wrap_add_eq_toInt (n : Nat) (x y : Int) :
    wrap n (x + y) = (BitVec.ofInt n x + BitVec.ofInt n y).toInt := by
  rw [wrap_eq_toInt_ofInt, BitVec.ofInt_add]

theorem wrap_sub_eq_toInt (n : Nat) (x y : Int) :
    wrap n (x - y) = (BitVec.ofInt n x - BitVec.ofInt n y).toInt := by
  rw [← wrap_sub_toInt, ← wrap_eq_toInt_ofInt, ← wrap_eq_toInt_ofInt]
  simp only [wrap, Int.bmod_sub_bmod, Int.sub_bmod_bmod]

theorem wrap_mul_eq_toInt (n : Nat) (x y : Int) :
    wrap n (x * y) = (BitVec.ofInt n x * BitVec.ofInt n y).toInt := by
  rw [wrap_eq_toInt_ofInt, BitVec.ofInt_mul]

theorem wrap_mul_two_pow_eq_toInt (n : Nat) (x : Int) (k : Nat) :
    wrap n (x * 2 ^ k) = (BitVec.ofInt n x <<< k).toInt := by
  rw [← wrap_shl_toInt, ← wrap_eq_toInt_ofInt]
  simp only [wrap, Int.bmod_mul_bmod]

theorem ofInt_toInt_eq_signExtend {m : Nat} (n : Nat) (x : BitVec m) : BitVec.ofInt n x.toInt = x.signExtend n := rfl

theorem ofInt_toNat_eq_setWidth {m : Nat} (n : Nat) (x : BitVec m) : BitVec.ofInt n x.toNat = x.setWidth n := by
  rw [BitVec.ofInt_natCast, BitVec.ofNat_toNat]

theorem toInt_eq_zero_iff {n : Nat} (x : BitVec n) : x.toInt = 0 ↔ x = 0#n := by
  rw [← BitVec.toInt_inj, BitVec.toInt_zero]

/-! ### `CompT` (R91) -/

/-- `CompT`'s primitives in their order, with the result `(fine, rounded)`. -/
def temperatureCalc (rawT : BitVec 20) (t1 t2 t3 : BitVec 16) : Calc (Int × Int) :=
  .prim (t1.toNat * 2 ^ 1) fun b =>
  .prim (asrN rawT.toNat 3 - b) fun c =>
  .prim (c * t2.toInt) fun d =>
  .prim (asrN rawT.toNat 4 - t1.toNat) fun e =>
  .prim (e * e) fun f =>
  .prim (asrN f 12 * t3.toInt) fun h =>
  .prim (asrN d 11 + asrN h 14) fun fine =>
  .prim (fine * 5) fun fine5 =>
  .prim (fine5 + 128) fun rounded =>
  .done (fine, rounded)

theorem compT_eq_run (rawT : BitVec 20) (t1 t2 t3 : BitVec 16) :
    compT rawT t1 t2 t3 =
      let r := (temperatureCalc rawT t1 t2 t3).run 32 false
      { fine := BitVec.ofInt 32 r.1.1, tout := BitVec.ofInt 32 (asrN r.1.2 8), ovf := r.2 } := by
  simp only [compT, temperatureCalc, Calc.run, addN, subN, mulN, shlN, narrow]

/-- Settles O5: `CompT` is the run of its calculation, and each primitive's value is the word operation's. The shifts of
a product by a power of two are taken first, so that they become `<<<` and not `*`. -/
theorem temperatureIsThirtyTwoBitArithmetic : Obligations.TemperatureIsThirtyTwoBitArithmetic := by
  unfold Obligations.TemperatureIsThirtyTwoBitArithmetic
  intro rawT t1 t2 t3 raw u1 var1 e var2 fine
  have asrN_raw (k : Nat) : asrN rawT.toNat k = (raw.sshiftRight k).toInt := by
    rw [toNat_eq_toInt_setWidth rawT (n := 32) (by decide), asrN_toInt]
  have values : ((temperatureCalc rawT t1 t2 t3).run 32 false).1 = (fine.toInt, (fine * 5#32 + 128#32).toInt) := by
    simp only [temperatureCalc, Calc.run, narrow_fst, asrN_raw, wrap_mul_two_pow_eq_toInt]
    simp only [wrap_add_eq_toInt, wrap_sub_eq_toInt, wrap_mul_eq_toInt, asrN_toInt, BitVec.ofInt_toInt,
      ofInt_toInt_eq_signExtend, ofInt_toNat_eq_setWidth]
    rfl
  simp only [compT_eq_run, values, asrN_toInt, BitVec.ofInt_toInt, true_and]

/-- Over unbounded integers only the three products can leave the range: the rest fits when they do. -/
theorem temperatureCalc_allFit_iff {rawT : BitVec 20} {t1 : BitVec 16} (t2 t3 : BitVec 16) {c e : Int}
    (hc : c = rawT.toNat / 8 - 2 * t1.toNat) (he : e = rawT.toNat / 16 - t1.toNat) :
    (temperatureCalc rawT t1 t2 t3).AllFit 32 ↔
      Fits 32 (c * t2.toInt) ∧ Fits 32 (e * e) ∧ Fits 32 (e * e / 4096 * t3.toInt) := by
  have raw := rawT.isLt
  have offset := t1.isLt
  have exactC : asrN rawT.toNat 3 - t1.toNat * 2 ^ 1 = c := by unfold asrN; omega
  have exactE : asrN rawT.toNat 4 - t1.toNat = e := by unfold asrN; omega
  have exactG (x : Int) : asrN x 12 = x / 4096 := rfl
  simp only [Calc.AllFit, temperatureCalc, Calc.exactResults, List.forall_mem_cons, exactC, exactE, exactG]
  generalize c * t2.toInt = d
  generalize e * e = f
  generalize f / 4096 * t3.toInt = h
  unfold Fits asrN
  constructor
  · rintro ⟨-, -, fitD, -, fitF, fitH, -⟩
    exact ⟨fitD, fitF, fitH⟩
  · rintro ⟨fitD, fitF, fitH⟩
    exact ⟨by omega, by omega, fitD, by omega, fitF, fitH, by omega, by omega, by omega, nofun⟩

/-- Settles O8: the indicator is that of the exact products, since a square that fits is not changed by `wrap`, and one
that does not has set the indicator already. -/
theorem temperatureOverflowsOnlyInItsProducts : Obligations.TemperatureOverflowsOnlyInItsProducts := by
  unfold Obligations.TemperatureOverflowsOnlyInItsProducts
  intro rawT t1 t2 t3 c e
  have clear_iff : (compT rawT t1 t2 t3).ovf = false ↔
      Fits 32 (c * t2.toInt) ∧ Fits 32 (e * e) ∧ Fits 32 (e * e / 4096 * t3.toInt) := by
    rw [compT_eq_run, Calc.run_snd_eq_false_iff (by decide), eq_self_iff_true, true_and,
      temperatureCalc_allFit_iff t2 t3 rfl rfl]
  have square : 0 ≤ e * e := mul_self_nonneg e
  rw [← Bool.not_eq_false, clear_iff]
  by_cases fitF : Fits 32 (e * e)
  · rw [wrap_of_mem fitF.1 fitF.2 (by decide)]
    unfold Fits at *
    omega
  · unfold Fits at *
    omega

/-! ### `CompP` (R93) -/

/-- Settles O6: before the guard and after it, each primitive's value is the word operation's, and the divisor is 0
exactly when its word is. -/
theorem pressureIsSixtyFourBitArithmetic : Obligations.PressureIsSixtyFourBitArithmetic := by
  unfold Obligations.PressureIsSixtyFourBitArithmetic
  intro rawP p1 p2 p3 p4 p5 p6 p7 p8 p9 fine var1a var2a var1b var1c q u var1d var2d r
  have terms : ((pressureTermsCalc p1 p2 p3 p4 p5 p6 fine).run 64 false).1 = (var2a.toInt, var1c.toInt) := by
    have one47 : wrap 64 (2 ^ 47) = (1#64 <<< 47).toInt := by decide
    simp only [pressureTermsCalc, Calc.run, narrow_fst, wrap_mul_two_pow_eq_toInt, one47]
    simp only [wrap_add_eq_toInt, wrap_sub_eq_toInt, wrap_mul_eq_toInt, asrN_toInt, BitVec.ofInt_toInt,
      ofInt_toInt_eq_signExtend, ofInt_toNat_eq_setWidth]
    rfl
  have quotient (o : Bool) : ((pressureQuotientCalc rawP p7 p8 p9 var2a.toInt var1c.toInt).run 64 o).1 =
      ((q + var1d + var2d).sshiftRight 8 + p7.signExtend 64 <<< 4).toInt := by
    simp only [pressureQuotientCalc, Calc.run, narrow_fst, wrap_mul_two_pow_eq_toInt]
    simp only [wrap_add_eq_toInt, wrap_sub_eq_toInt, wrap_mul_eq_toInt, wrap_div_toInt, asrN_toInt, BitVec.ofInt_toInt,
      ofInt_toInt_eq_signExtend, ofInt_toNat_eq_setWidth]
    rfl
  have termValues : (pressureTerms p1 p2 p3 p4 p5 p6 fine).var2a = var2a.toInt ∧
      (pressureTerms p1 p2 p3 p4 p5 p6 fine).var1c = var1c.toInt := by
    simp only [pressureTerms_eq_run, terms, and_self]
  obtain ⟨hvar2a, hvar1c⟩ := termValues
  by_cases zero : var1c = 0#64
  · have divisor : (pressureTerms p1 p2 p3 p4 p5 p6 fine).var1c = 0 := by rwa [hvar1c, toInt_eq_zero_iff]
    simp only [r, compP_of_zero divisor, zero, decide_true, if_true, and_self]
  · have divisor : (pressureTerms p1 p2 p3 p4 p5 p6 fine).var1c ≠ 0 := by rwa [hvar1c, Ne, toInt_eq_zero_iff]
    simp only [r, compP_of_nonzero divisor, pressureQuotient_eq_run, hvar2a, hvar1c, quotient, zero, BitVec.ofInt_toInt,
      decide_false, if_false, and_self]

/-- A calibration with P1 = 0 makes the divisor 0. -/
theorem pressureTerms_var1c_of_zero (p2 p3 p4 p5 p6 : BitVec 16) (fine : BitVec 32) :
    (pressureTerms 0#16 p2 p3 p4 p5 p6 fine).var1c = 0 := by
  simp [pressureTerms_eq_run, pressureTermsCalc, Calc.run, wrap, asrN]

/-! ### `CompH` (R95, R96) -/

/-- Settles O7: each primitive's value is the word operation's, and the clamp compares the value of the last word. -/
theorem humidityIsThirtyTwoBitArithmetic : Obligations.HumidityIsThirtyTwoBitArithmetic := by
  unfold Obligations.HumidityIsThirtyTwoBitArithmetic
  intro rawH h1 h2 h3 h4 h5 h6 fine v0 x y1 y2 y4 y v1 z v2 v3
  have value : ((humidityCalc rawH h1 h2 h3 h4 h5 h6 fine).run 32 false).1 = v2.toInt := by
    simp only [humidityCalc, Calc.run, narrow_fst, wrap_mul_two_pow_eq_toInt]
    simp only [wrap_add_eq_toInt, wrap_sub_eq_toInt, wrap_mul_eq_toInt, asrN_toInt, BitVec.ofInt_toInt,
      ofInt_toInt_eq_signExtend, ofInt_toNat_eq_setWidth]
    rfl
  have clamped : clamp v2.toInt 0 419430400 = v3.toInt := by
    simp only [clamp, v3, apply_ite BitVec.toInt]
    rfl
  simp only [compH_eq_run, value, humidityOutput, clamped, asrN_toInt, BitVec.ofInt_toInt]

/-! ### The checks (R88) -/

/-- The check of `COMPT`, `COMPP` and `COMPH`, as one function of the command. -/
def compensationGate (i : Instr) (st : Status) : ErrCode := if i = .compt then gateTemperature st else gateFine st

theorem compensationGate_eq (i : Instr) (st : Status) :
    compensationGate i st =
      if st.idst = .mismatch ∨ st.calValid = false then .notready
      else if st.rawValid = false then .noraw
      else if i ≠ .compt ∧ st.ftValid = false then .staleft
      else .ok := by
  by_cases compt : i = .compt <;> simp [compensationGate, gateTemperature, gateFine, compt]

/-- A compensation command whose check gives a code ends with that code and nothing else. -/
theorem exec_of_compensationGate_error {i : Instr} {s : State} {e : ErrCode}
    (compensates : i ∈ [.compt, .compp, .comph]) (gate : compensationGate i s.status = e) (error : e ≠ .ok) :
    exec i s = .next (raise e (beginCommand s)) := by
  subst gate
  simp only [List.mem_cons, List.not_mem_nil, or_false] at compensates
  rcases compensates with rfl | rfl | rfl
  · rcases execCompt_cases s with ⟨-, refused⟩ | ⟨ok, -⟩ | ⟨_, _, ok, -⟩
    exacts [refused, absurd ok error, absurd ok error]
  · rcases execCompp_cases s with ⟨-, refused⟩ | ⟨ok, -⟩ | ⟨_, _, _, ok, -⟩
    exacts [refused, absurd ok error, absurd ok error]
  · rcases execComph_cases s with ⟨-, refused⟩ | ⟨ok, -⟩ | ⟨_, _, _, ok, -⟩
    exacts [refused, absurd ok error, absurd ok error]

/-- Backed flags that pass the check of `COMPT` stand over registers that hold values. -/
theorem readyForTemperature_of_backed {s : State} (backed : FlagsBacked s) (gate : gateTemperature s.status = .ok) :
    ∃ c r, ReadyForTemperature s c r := by
  obtain ⟨-, raw, cal, -⟩ := backed
  obtain ⟨identity, calSet, rawSet⟩ := (gateTemperature_eq_ok_iff _).1 gate
  obtain ⟨c, hc⟩ := Option.ne_none_iff_exists'.1 (cal calSet)
  obtain ⟨r, hr⟩ := Option.ne_none_iff_exists'.1 (raw rawSet)
  exact ⟨c, r, identity, calSet, rawSet, hc, hr⟩

/-- Backed flags that pass the check of `COMPP` and `COMPH` stand over registers that hold values. -/
theorem readyForFine_of_backed {s : State} (backed : FlagsBacked s) (gate : gateFine s.status = .ok) :
    ∃ c r fine, ReadyForFine s c r fine := by
  obtain ⟨identity, calSet, rawSet, fineSet⟩ := (gateFine_eq_ok_iff _).1 gate
  obtain ⟨c, r, -, -, -, hc, hr⟩ :=
    readyForTemperature_of_backed backed ((gateTemperature_eq_ok_iff _).2 ⟨identity, calSet, rawSet⟩)
  obtain ⟨-, -, -, tFine⟩ := backed
  obtain ⟨fine, hfine⟩ := Option.ne_none_iff_exists'.1 (tFine fineSet)
  exact ⟨c, r, fine, identity, calSet, rawSet, fineSet, hc, hr, hfine⟩

/-- A compensation command past its check ends OK. -/
theorem exec_of_compensationGate_ok {i : Instr} {s : State} (compensates : i ∈ [.compt, .compp, .comph])
    (gate : compensationGate i s.status = .ok) (backed : FlagsBacked s) :
    ∃ t, exec i s = .next t ∧ t.status.err = .ok := by
  simp only [List.mem_cons, List.not_mem_nil, or_false] at compensates
  rcases compensates with rfl | rfl | rfl
  · obtain ⟨c, r, ready⟩ := readyForTemperature_of_backed backed gate
    exact ⟨_, execCompt_of_ready ready, by simp⟩
  · obtain ⟨c, r, fine, ready⟩ := readyForFine_of_backed backed gate
    exact ⟨_, execCompp_of_ready ready, by simp⟩
  · obtain ⟨c, r, fine, ready⟩ := readyForFine_of_backed backed gate
    exact ⟨_, execComph_of_ready ready, by simp⟩

/-- Settles O45: each branch is one value of the command's check. -/
theorem compensationChecksInOrder : Obligations.CompensationChecksInOrder := by
  unfold Obligations.CompensationChecksInOrder
  intro s i compensates refusedWith
  have gate := compensationGate_eq i s.status
  split
  case isTrue notReady => exact exec_of_compensationGate_error compensates (by rw [gate, if_pos notReady]) (by decide)
  case isFalse ready =>
    rw [if_neg ready] at gate
    split
    case isTrue noRaw => exact exec_of_compensationGate_error compensates (by rw [gate, if_pos noRaw]) (by decide)
    case isFalse raw =>
      rw [if_neg raw] at gate
      split
      case isTrue stale => exact exec_of_compensationGate_error compensates (by rw [gate, if_pos stale]) (by decide)
      case isFalse current => exact exec_of_compensationGate_ok compensates (by rw [gate, if_neg current])

/-! ### The writes after the clears (R90, R92, R94, R97)

For any result: `rfl` on the `CompT` or `CompH` of concrete registers would have the kernel evaluate it. -/

section

variable {s : State} {x : TemperatureResult} {y : PressureResult} {z : HumidityResult}

theorem writeTemperature_beginCommand_of_computed (computed : Computed s x.ovf) :
    writeTemperature x (beginCommand s) = { s with
      tFine := some x.fine, tOut := some x.tout
      status := { cleared s.status with ftValid := true, ovf := x.ovf } } := by
  rw [writeTemperature_of_computed (s := beginCommand s) computed]
  rfl

theorem writePressure_beginCommand_of_computed (computed : Computed s y.ovf) :
    writePressure y (beginCommand s) = { s with
      pOut := some y.p
      status := { cleared s.status with degen := y.degen, ovf := y.ovf } } := by
  rw [writePressure_of_computed (s := beginCommand s) computed]
  rfl

theorem writeHumidity_beginCommand_of_computed (computed : Computed s z.ovf) :
    writeHumidity z (beginCommand s) = { s with
      hOut := some z.h
      status := { cleared s.status with ovf := z.ovf } } := by
  rw [writeHumidity_of_computed (s := beginCommand s) computed]
  rfl

theorem drawsResult_of_overflow {ovf : Bool} (policy : s.params.ovfPolicy = .anyvalue) (overflow : ovf = true) :
    drawsResult ovf (beginCommand s) = true :=
  (drawsResult_eq_true_iff ovf (beginCommand s)).2 ⟨policy, overflow⟩

theorem writeTemperature_beginCommand_of_overflow (policy : s.params.ovfPolicy = .anyvalue) (overflow : x.ovf = true) :
    writeTemperature x (beginCommand s) = { s with
      tFine := some x.fine, tOut := some (Config.anyTemperature s.draws), draws := s.draws + 1
      status := { cleared s.status with ftValid := true, ovf := true } } := by
  rw [writeTemperature, drawsResult_of_overflow policy overflow, overflow]
  rfl

theorem writePressure_beginCommand_of_overflow (policy : s.params.ovfPolicy = .anyvalue) (overflow : y.ovf = true) :
    writePressure y (beginCommand s) = { s with
      pOut := some (Config.anyPressure s.draws), draws := s.draws + 1
      status := { cleared s.status with degen := y.degen, ovf := true } } := by
  rw [writePressure, drawsResult_of_overflow policy overflow, overflow]
  rfl

theorem writeHumidity_beginCommand_of_overflow (policy : s.params.ovfPolicy = .anyvalue) (overflow : z.ovf = true) :
    writeHumidity z (beginCommand s) = { s with
      hOut := some (humidityDraw s.draws), draws := s.draws + 1
      status := { cleared s.status with ovf := true } } := by
  rw [writeHumidity, drawsResult_of_overflow policy overflow, overflow]
  rfl

end

/-! ### The commands past their checks -/

/-- `COMPT` writes nothing that its own check or its operands read. -/
theorem readyForTemperature_writeTemperature {s : State} {c : Calibration} {r : RawSample} (x : TemperatureResult)
    (ready : ReadyForTemperature s c r) : ReadyForTemperature (writeTemperature x (beginCommand s)) c r := by
  simpa [ReadyForTemperature] using ready

/-- Settles O46: `CompT`'s writes after the clears, and the same command again in the state they leave. -/
theorem comptComputesTemperature : Obligations.ComptComputesTemperature := by
  unfold Obligations.ComptComputesTemperature
  refine ⟨rfl, fun s c r ready => ?_⟩
  have first := execCompt_of_ready ready
  have second := execCompt_of_ready (readyForTemperature_writeTemperature (temperatureOf c r) ready)
  rw [temperatureOf] at first second
  refine ⟨fun computed => ?_, _, _, first, second, by simp⟩
  rw [exec, first, writeTemperature_beginCommand_of_computed computed]

/-- Settles O47: `CompP`'s writes after the clears. -/
theorem comppComputesPressure : Obligations.ComppComputesPressure := by
  unfold Obligations.ComppComputesPressure
  refine ⟨rfl, fun s c r fine ready computed => ?_⟩
  rw [exec, execCompp_of_ready ready, pressureOf, writePressure_beginCommand_of_computed computed]

/-- Settles O48: `CompH`'s writes after the clears. -/
theorem comphComputesHumidity : Obligations.ComphComputesHumidity := by
  unfold Obligations.ComphComputesHumidity
  refine ⟨rfl, fun s c r fine ready computed => ?_⟩
  rw [exec, execComph_of_ready ready, humidityOf, writeHumidity_beginCommand_of_computed computed]

/-- Settles O49: P1 = 0 makes the divisor 0, a degenerate result is the sentinel, and `COMPP` writes it. -/
theorem degenerateCalibrationGivesZero : Obligations.DegenerateCalibrationGivesZero := by
  unfold Obligations.DegenerateCalibrationGivesZero
  refine ⟨fun rawP p2 p3 p4 p5 p6 p7 p8 p9 fine => ?zero, compP_degen_zero,
    fun s c r fine ready degenerate computed => ?command⟩
  case zero => exact (compP_degen_iff ..).2 (pressureTerms_var1c_of_zero ..)
  case command =>
    have sentinel : (pressureOf c r fine).p = 0#64 := compP_degen_zero _ _ _ _ _ _ _ _ _ _ _ degenerate
    have completes := execCompp_of_ready ready
    rw [writePressure_beginCommand_of_computed computed, sentinel] at completes
    exact ⟨_, completes, rfl, degenerate, rfl⟩

/-- Settles O50: each command's writes after the clears, with the draw. -/
theorem overflowUnderAnyvalueDraws : Obligations.OverflowUnderAnyvalueDraws := by
  unfold Obligations.OverflowUnderAnyvalueDraws
  intro s c r policy
  refine ⟨fun ready overflow => ?temperature, fun fine ready overflow => ?pressure,
    fun fine ready overflow => ?humidity⟩
  case temperature => rw [exec, execCompt_of_ready ready, writeTemperature_beginCommand_of_overflow policy overflow]
  case pressure => rw [exec, execCompp_of_ready ready, writePressure_beginCommand_of_overflow policy overflow]
  case humidity =>
    rw [exec, execComph_of_ready ready, writeHumidity_beginCommand_of_overflow policy overflow, humidityDraw]

/-! ### The clamp of humidity (R98) -/

/-- Each end without an error of the three commands has written `H_OUT`, a clamped result or a bounded draw. -/
theorem hOut_le_of_commandEnd {i : Instr} {s t : State} (writes : i ∈ [.comph, .meas, .measS]) (h : CommandEnd i s t)
    (ok : t.status.err = .ok) : ∃ v, t.hOut = some v ∧ v.toNat ≤ 102400 := by
  cases h with
  | refused error => exact absurd ok error
  | rawShort => cases ok
  | humidity result => exact ⟨_, writeHumidity_hOut _ _, by rw [result]; exact humidityWritten_le ..⟩
  | measured _ _ _ result => exact ⟨_, writeAll_hOut _ _ _ _, by rw [result]; exact humidityWritten_le ..⟩
  | rawStored reads => rcases List.mem_pair.1 reads with rfl | rfl <;> simp at writes
  | _ => simp at writes

theorem percentHumidity_mem {h : BitVec 32} (le : h.toNat ≤ 102400) :
    0 ≤ percentHumidity h ∧ percentHumidity h ≤ 100 := by
  have le' : (h.toNat : ℚ) ≤ 102400 := by exact_mod_cast le
  unfold percentHumidity
  constructor
  · positivity
  · linarith

/-- Settles O51: the bound of the register, and of the percentage it stands for. -/
theorem humidityOutputIsClamped : Obligations.HumidityOutputIsClamped := by
  unfold Obligations.HumidityOutputIsClamped
  intro i s t writes h ok
  obtain ⟨v, hOut, le⟩ := hOut_le_of_commandEnd writes (commandEnd_of_exec h) ok
  exact ⟨v, hOut, le, percentHumidity_mem le⟩

/-! ### The physical values (R99) -/

/-- Settles O22: a quotient times its divisor; the numbers of E1, E2 and V-T2 are evaluated. -/
theorem physicalValuesAreExactRationals : Obligations.PhysicalValuesAreExactRationals := by
  unfold Obligations.PhysicalValuesAreExactRationals
  refine ⟨fun t => div_mul_cancel₀ _ (by norm_num),
    fun p => ⟨div_mul_cancel₀ _ (by norm_num), div_mul_cancel₀ _ (by norm_num)⟩,
    fun h => div_mul_cancel₀ _ (by norm_num), ?_, ?_, ?_, ?_⟩
  · show ((2508 : Int) : ℚ) / 100 = 25.08
    norm_num
  · show ((25767233 : Int) : ℚ) / 256 = 100653.25390625
    norm_num
  · show ((25767233 : Int) : ℚ) / 25600 = 1006.5325390625
    norm_num
  · show ((-14088 : Int) : ℚ) / 100 = -140.88
    norm_num

end Sys2Proof.Proofs

/-! # Measurement (43_measure.md): `MEAS`, `MEAS.S`, and their four commands -/

namespace Sys2Proof.Proofs

open Sys2Proof.Machine Sys2Proof.Safety

/-! ### `MEAS` and `MEAS.S` before their samples (R100, R101) -/

/-- The check of `MEAS` and `MEAS.S`, when it fails. -/
theorem exec_of_notReadyToMeasure {i : Instr} {s : State} (measures : i ∈ [.meas, .measS])
    (unready : s.status.idst = .mismatch ∨ s.status.calValid = false) :
    exec i s = .next (raise .notready (beginCommand s)) := by
  have failed : ¬(s.status.idst ≠ .mismatch ∧ s.status.calValid = true) := by simpa [imp_iff_not_or] using unready
  rcases List.mem_pair.1 measures with rfl | rfl
  · rcases execMeas_cases s with ⟨-, refused⟩ | ⟨passed, -⟩ | ⟨_, passed, -⟩
    exacts [refused, absurd passed failed, absurd passed failed]
  · rcases execMeasS_cases s with ⟨-, refused⟩ | ⟨passed, -⟩ | ⟨_, passed, -⟩
    exacts [refused, absurd passed failed, absurd passed failed]

/-- `MEAS` and `MEAS.S` past their check come to their reads. -/
theorem reachesTransport_of_readyToMeasure {i : Instr} {s : State} {c : Calibration} (measures : i ∈ [.meas, .measS])
    (ready : ReadyToMeasure s c) : ReachesTransport i s := by
  obtain ⟨identity, valid, store⟩ := ready
  have reads : s.status.idst ≠ .mismatch ∧ s.status.calValid = true ∧ s.cal ≠ none :=
    ⟨identity, valid, by simp [store]⟩
  rcases List.mem_pair.1 measures with rfl | rfl <;> exact reads

/-! ### `MEAS` and `MEAS.S` on full answers (R100, R101) -/

theorem packSingle_of_bytes (d0 d1 d2 d3 d4 d5 d6 d7 : Byte) :
    packSingle #v[d0, d1, d2, d3, d4, d5, d6, d7] =
      { p := pack20 d0 d1 d2, t := pack20 d3 d4 d5, h := pack16 d6 d7 } := rfl

theorem packSplit_of_bytes (p0 p1 p2 t0 t1 t2 h0 h1 : Byte) :
    packSplit #v[p0, p1, p2] #v[t0, t1, t2] #v[h0, h1] =
      { p := pack20 p0 p1 p2, t := pack20 t0 t1 t2, h := pack16 h0 h1 } := rfl

/-- The whole state after a full raw read, when nothing is free. For any three results: `rfl` on those of concrete
registers would have the kernel evaluate them. -/
theorem measureFrom_started_of_computed {c : Calibration} {r : RawSample} {i : Instr} {n : Nat} {s : State}
    {x : TemperatureResult} {y : PressureResult} {z : HumidityResult} (temperature : temperatureOf c r = x)
    (pressure : pressureOf c r x.fine = y) (humidity : humidityOf c r x.fine = z)
    (computed : Computed s (x.ovf || y.ovf || z.ovf)) :
    measureFrom c (some r, started i n s) = { afterBursts ((burstsOf s.params i).take n) s with
      raw := some r, tFine := some x.fine, tOut := some x.tout, pOut := some y.p, hOut := some z.h
      status := { cleared s.status with
        rawValid := true, ftValid := true, degen := y.degen, ovf := x.ovf || y.ovf || z.ovf } } := by
  rw [measureFrom_of_computed (s := started i n s) temperature pressure humidity computed]
  rfl

/-- Settles O52: the refusal, the short answer to the one burst, and the full one. -/
theorem measReadsAndComputesAll : Obligations.MeasReadsAndComputesAll := by
  unfold Obligations.MeasReadsAndComputesAll
  refine ⟨rfl, fun s => ⟨fun unready => ?refused, fun c ready => ⟨fun short => ?short,
    fun d0 d1 d2 d3 d4 d5 d6 d7 more answer => ?full⟩⟩⟩
  case refused => exact exec_of_notReadyToMeasure (i := .meas) (by decide) unready
  case short =>
    exact exec_of_shortAt (i := .meas) (reachesTransport_of_readyToMeasure (by decide) ready) (shortAt_first short)
  case full =>
    intro r x y z computed
    have full : takeBurst 8 (coming s 0) = some #v[d0, d1, d2, d3, d4, d5, d6, d7] := by rw [answer, takeBurst_eight]
    rw [exec, execMeas_of_ready ready, sampleSingle_of_full full, packSingle_of_bytes,
      measureFrom_started_of_computed (x := x) (y := y) (z := z) rfl rfl rfl computed]
    rfl

/-- Settles O53: the refusal, the three places of the first short answer, and three full ones. -/
theorem measSplitReadsAndComputesAll : Obligations.MeasSplitReadsAndComputesAll := by
  unfold Obligations.MeasSplitReadsAndComputesAll
  refine ⟨rfl, fun s => ⟨fun unready => ?refused, fun c ready => ?ready⟩⟩
  case refused => exact exec_of_notReadyToMeasure (i := .measS) (by decide) unready
  case ready =>
    have reaches := reachesTransport_of_readyToMeasure (i := .measS) (by decide) ready
    refine ⟨fun short => ?first, fun full short => ?second, fun full₀ full₁ short => ?third,
      fun p0 p1 p2 t0 t1 t2 h0 h1 more0 more1 more2 answer₀ answer₁ answer₂ => ?full⟩
    case first => exact exec_of_shortAt reaches (shortAt_first short)
    case second => exact exec_of_shortAt reaches (shortAt_second full short)
    case third => exact exec_of_shortAt reaches (shortAt_third full₀ full₁ short)
    case full =>
      intro r x y z computed
      have pressure : takeBurst 3 (coming s 0) = some #v[p0, p1, p2] := by rw [answer₀, takeBurst_three]
      have temperature : takeBurst 3 (coming s 1) = some #v[t0, t1, t2] := by rw [answer₁, takeBurst_three]
      have humidity : takeBurst 2 (coming s 2) = some #v[h0, h1] := by rw [answer₂, takeBurst_two]
      rw [exec, execMeasS_of_ready ready, sampleSplit_of_full pressure temperature humidity, packSplit_of_bytes,
        measureFrom_started_of_computed (x := x) (y := y) (z := z) rfl rfl rfl computed]
      rfl

/-! ### The four commands (R102) -/

/-- A raw read of `i` whose bursts are all answered in full gives a sample. -/
theorem rawRead_of_full {i : Instr} {s : State} (reads : i ∈ [.ldraw, .ldrawS])
    (full : ∀ j b, (burstsOf s.params i)[j]? = some b → b.len ≤ (coming s j).length) :
    ∃ r, rawRead i (setFtValid false (beginCommand s)) = (some r, started i 3 s) := by
  rcases List.mem_pair.1 reads with rfl | rfl
  · obtain ⟨d, answer⟩ := takeBurst_of_le (full 0 _ rfl)
    exact ⟨_, sampleSingle_of_full answer⟩
  · obtain ⟨dp, pressure⟩ := takeBurst_of_le (full 0 _ rfl)
    obtain ⟨dt, temperature⟩ := takeBurst_of_le (full 1 _ rfl)
    obtain ⟨dh, humidity⟩ := takeBurst_of_le (full 2 _ rfl)
    exact ⟨_, sampleSplit_of_full pressure temperature humidity⟩

theorem exec_rawCommand_of_reached {i : Instr} {s : State} (reads : i ∈ [.ldraw, .ldrawS])
    (reaches : s.status.idst ≠ .mismatch) :
    exec i s = .next (storeSample (rawRead i (setFtValid false (beginCommand s)))) := by
  rcases List.mem_pair.1 reads with rfl | rfl
  · exact execLdraw_of_reached reaches
  · exact execLdrawS_of_reached reaches

/-- A raw command asks for at least its first burst. -/
theorem exec_rawCommand_requests {i : Instr} {s : State} (reads : i ∈ [.ldraw, .ldrawS])
    (reaches : s.status.idst ≠ .mismatch) :
    ∃ t k, exec i s = .next t ∧ 0 < k ∧ t.bus.requests = s.bus.requests ++ (burstsOf s.params i).take k := by
  have ends := rawRead_cases (i := i) (by rcases List.mem_pair.1 reads with rfl | rfl <;> simp) s
  rw [exec_rawCommand_of_reached reads reaches]
  rcases ends with ⟨n, asked, -, short⟩ | ⟨r, full⟩
  · exact ⟨_, n, rfl, asked, by rw [short]; rfl⟩
  · exact ⟨_, 3, rfl, by decide, by rw [full]; rfl⟩

/-! `MEAS` reads as `LDRAW` does, and `MEAS.S` as `LDRAW.S` does. -/

section

variable {measure load : Instr} (pair : (measure, load) ∈ [(Instr.meas, Instr.ldraw), (.measS, .ldrawS)])

include pair

theorem mem_of_measuringPair : measure ∈ [.meas, .measS] ∧ load ∈ [.ldraw, .ldrawS] := by
  rcases List.mem_pair.1 pair with h | h <;> cases h <;> decide

theorem burstsOf_eq_of_measuringPair (p : Params) : burstsOf p measure = burstsOf p load := by
  rcases List.mem_pair.1 pair with h | h <;> cases h <;> rfl

/-- `MEAS` and `MEAS.S` past their check: their raw command's read, and what follows. -/
theorem exec_measure_of_ready {s : State} {c : Calibration} (ready : ReadyToMeasure s c) :
    exec measure s = .next (measureFrom c (rawRead load (setFtValid false (beginCommand s)))) := by
  rcases List.mem_pair.1 pair with h | h <;> cases h
  · exact execMeas_of_ready ready
  · exact execMeasS_of_ready ready

end

section

variable {s : State} {c : Calibration} {r : RawSample} {fine : BitVec 32}

/-- A raw read leaves a state in which `COMPT` passes its check, with the sample read. -/
theorem readyForTemperature_writeRaw (i : Instr) (n : Nat) (r : RawSample) (ready : ReadyToMeasure s c) :
    ReadyForTemperature (writeRaw r (started i n s)) c r := by
  obtain ⟨identity, valid, cal⟩ := ready
  exact ⟨identity, valid, rfl, cal, rfl⟩

/-- `COMPT` leaves a state in which `COMPP` and `COMPH` pass their check, with its fine temperature. -/
theorem readyForFine_writeTemperature (x : TemperatureResult) (ready : ReadyForTemperature s c r) :
    ReadyForFine (writeTemperature x (beginCommand s)) c r x.fine := by
  simpa [ReadyForFine, ReadyForTemperature] using ready

/-- `COMPP` writes nothing that the check or the operands of `COMPH` read. -/
theorem readyForFine_writePressure (y : PressureResult) (ready : ReadyForFine s c r fine) :
    ReadyForFine (writePressure y (beginCommand s)) c r fine := by
  simpa [ReadyForFine] using ready

end

/-- The writes of a compensation command read no per-command field, so the clears before each command make no difference
beyond those fields: `beginCommand s = beginCommand t` says that `s` and `t` agree on everything else. -/
theorem beginCommand_writeAll (x : TemperatureResult) (y : PressureResult) (z : HumidityResult) (s : State) :
    beginCommand (writeAll x y z s) =
      beginCommand (writeHumidity z (beginCommand (writePressure y (beginCommand
        (writeTemperature x (beginCommand s)))))) := by
  cases x; cases y; cases z; rfl

/-- Settles O54: both runs make one raw read, and their writes after it are those of the same three results. -/
theorem measEqualsTheFourCommands : Obligations.MeasEqualsTheFourCommands := by
  unfold Obligations.MeasEqualsTheFourCommands
  rintro ⟨measure, load⟩ pair
  obtain ⟨measures, reads⟩ := mem_of_measuringPair pair
  refine ⟨fun s c ready full => ?equal, fun s identity invalid => ?refused⟩
  case equal =>
    have ⟨identity, _, _⟩ := ready
    simp only [burstsOf_eq_of_measuringPair pair] at full
    obtain ⟨r, sample⟩ := rawRead_of_full reads full
    have measured := exec_measure_of_ready pair ready
    have loaded := exec_rawCommand_of_reached reads identity
    obtain ⟨x, y, z, hx, hy, hz, written⟩ := compensateAll_eq_writeAll c r (writeRaw r (started load 3 s))
    rw [sample, measureFrom, written] at measured
    rw [sample, storeSample] at loaded
    have readyT := readyForTemperature_writeRaw load 3 r ready
    have readyP := readyForFine_writeTemperature x readyT
    have temperature := execCompt_of_ready readyT
    have pressure := execCompp_of_ready readyP
    have humidity := execComph_of_ready (readyForFine_writePressure y readyP)
    rw [← hx] at temperature
    rw [← hy] at pressure
    rw [← hz] at humidity
    exact ⟨_, _, _, _, _, measured, loaded, temperature, pressure, humidity, beginCommand_writeAll .., by simp⟩
  case refused =>
    exact ⟨exec_of_notReadyToMeasure measures (.inr invalid), exec_rawCommand_requests reads identity⟩

end Sys2Proof.Proofs

/-! # Exceptions (60_exceptions.md): what a command that ends with an error leaves alone -/

namespace Sys2Proof.Proofs

open Sys2Proof.Machine Sys2Proof.Safety

/-- Of the ends with an error, the one that records a wrong identity writes `ID_LAST` and `IDST`; the others write
flags and the transport alone (60_exceptions.md R106, R107). -/
theorem registers_of_commandEnd_error {i : Instr} {s t : State} (h : CommandEnd i s t) (error : t.status.err ≠ .ok) :
    t.cal = s.cal ∧ t.raw = s.raw ∧ t.tFine = s.tFine ∧ t.tOut = s.tOut ∧ t.pOut = s.pOut ∧ t.hOut = s.hOut ∧
      (t.status.err ≠ .nodev → t.idLast = s.idLast ∧ t.status.idst = s.status.idst) := by
  cases h with
  | identityExpected | calibrationLoaded | rawStored | temperature | pressure | humidity | measured =>
    exact absurd (by simp) error
  | identityOther => exact ⟨rfl, rfl, rfl, rfl, rfl, rfl, fun identified => absurd rfl identified⟩
  | refused | identityShort | calibrationShort | rawShort =>
    exact ⟨rfl, rfl, rfl, rfl, rfl, rfl, fun _ => ⟨rfl, rfl⟩⟩

/-- Settles O56: the registers end by end, and `OVF` and `DEGEN` by the invariant on the per-command fields, which every
command establishes. -/
theorem errorsWriteNoDataRegister : Obligations.ErrorsWriteNoDataRegister := by
  unfold Obligations.ErrorsWriteNoDataRegister
  intro i s t h error
  have ended := commandEnd_of_exec h
  obtain ⟨cal, raw, tFine, tOut, pOut, hOut, identity⟩ := registers_of_commandEnd_error ended error
  obtain ⟨clear, -⟩ := fieldsOfLastCommand_of_commandEnd ended
  obtain ⟨ovf, degen⟩ := clear error
  exact ⟨cal, raw, tFine, tOut, pOut, hOut, identity, ovf, degen⟩

end Sys2Proof.Proofs

/-! # Reset and hazards (70_reset_and_hazards.md): a new sample makes the fine temperature old -/

namespace Sys2Proof.Proofs

open Sys2Proof.Machine Sys2Proof.Safety

/-! ### A raw read clears `FT_VALID` (R118, 10_state.md R33) -/

/-- `LDRAW` and `LDRAW.S` past their check clear `FT_VALID`, whether the read is short or full. -/
theorem ftValid_of_rawCommand {i : Instr} {s t : State} (reads : i ∈ [.ldraw, .ldrawS])
    (reaches : s.status.idst ≠ .mismatch) (h : exec i s = .next t) : t.status.ftValid = false := by
  rw [exec_rawCommand_of_reached reads reaches] at h
  cases h
  have ends := rawRead_cases (i := i) (by rcases List.mem_pair.1 reads with rfl | rfl <;> simp) s
  rcases ends with ⟨n, -, -, short⟩ | ⟨r, full⟩
  · rw [short]; rfl
  · rw [full]; rfl

/-- `MEAS` and `MEAS.S` past their check: a short read ends in an error with `FT_VALID` clear, and a full one ends OK. -/
theorem ftValid_of_measure_error {measure load : Instr} {s t : State}
    (pair : (measure, load) ∈ [(Instr.meas, Instr.ldraw), (.measS, .ldrawS)])
    (reaches : s.status.idst ≠ .mismatch ∧ s.status.calValid = true ∧ s.cal ≠ none) (h : exec measure s = .next t)
    (error : t.status.err ≠ .ok) : t.status.ftValid = false := by
  obtain ⟨identity, valid, store⟩ := reaches
  obtain ⟨c, cal⟩ := Option.ne_none_iff_exists'.1 store
  rw [exec_measure_of_ready pair ⟨identity, valid, cal⟩] at h
  cases h
  obtain ⟨-, reads⟩ := mem_of_measuringPair pair
  have ends := rawRead_cases (i := load) (by rcases List.mem_pair.1 reads with rfl | rfl <;> simp) s
  rcases ends with ⟨n, -, -, short⟩ | ⟨r, full⟩
  · rw [short]; rfl
  · obtain ⟨x, y, z, -, -, -, written⟩ := compensateAll_eq_writeAll c r (writeRaw r (started load 3 s))
    rw [full, measureFrom, written] at error
    exact absurd (by simp) error

/-! ### What sets `FT_VALID`, and what it gates (R118, 42_compensation.md R88) -/

/-- Of the ends of a command, only the writes of a `CompT` set `FT_VALID`, in `COMPT`, `MEAS` or `MEAS.S`; they end OK. -/
theorem commandEnd_of_ftValid_set {i : Instr} {s t : State} (h : CommandEnd i s t) (stale : s.status.ftValid = false)
    (current : t.status.ftValid = true) : i ∈ [.compt, .meas, .measS] ∧ t.status.err = .ok := by
  cases h with
  | temperature => exact ⟨by simp, by simp⟩
  | measured reads => exact ⟨List.mem_cons_of_mem _ reads, by simp⟩
  | calibrationShort | calibrationLoaded | rawShort | rawStored => exact absurd current (by simp)
  | _ => exact absurd stale (by simpa using current)

/-- With `FT_VALID` clear, the check of `COMPP` and `COMPH` fails, at its last step if not before. -/
theorem gateFine_of_stale {st : Status} (stale : st.ftValid = false) :
    gateFine st ∈ [ErrCode.notready, .noraw, .staleft] ∧
      (st.idst ≠ .mismatch → st.calValid = true → st.rawValid = true → gateFine st = .staleft) := by
  rw [gateFine, if_pos stale]
  split
  case isTrue notReady => exact ⟨by simp, fun identity cal _ => absurd notReady (by simp [identity, cal])⟩
  case isFalse =>
    split
    case isTrue noRaw => exact ⟨by simp, fun _ _ raw => absurd noRaw (by simp [raw])⟩
    case isFalse => simp

/-- Settles O60: a raw read clears `FT_VALID` before its first burst, only the writes of a `CompT` set it, and the last
check of `COMPP` and `COMPH` reads it. -/
theorem newCycleNeedsTemperatureFirst : Obligations.NewCycleNeedsTemperatureFirst := by
  unfold Obligations.NewCycleNeedsTemperatureFirst
  refine ⟨fun s t i samples reaches h ends => ?falls, fun s t stale h current => ?rises, fun s i gated stale => ?gates⟩
  case falls =>
    simp only [List.mem_cons, List.not_mem_nil, or_false] at samples
    rcases samples with rfl | rfl | rfl | rfl
    · exact ftValid_of_rawCommand (by simp) reaches h
    · exact ftValid_of_rawCommand (by simp) reaches h
    · exact ftValid_of_measure_error (load := .ldraw) (by simp) reaches h (ends.resolve_left (by simp))
    · exact ftValid_of_measure_error (load := .ldrawS) (by simp) reaches h (ends.resolve_left (by simp))
  case rises =>
    rcases step_command_cases h with ⟨_, rfl⟩ | ⟨_, rfl⟩ | ⟨i, rest, u, _, next, hend, rfl⟩
    · exact absurd stale (by simpa using current)
    · exact absurd stale (by simpa using current)
    · obtain ⟨computes, ok⟩ := commandEnd_of_ftValid_set hend stale current
      exact ⟨ok, encode i, List.mem_map_of_mem (f := encode) computes, next⟩
  case gates =>
    obtain ⟨code, last⟩ := gateFine_of_stale stale
    have error : gateFine s.status ≠ .ok := by rintro ok; simp [ok] at code
    have check : compensationGate i s.status = gateFine s.status :=
      if_neg (by rcases List.mem_pair.1 gated with rfl | rfl <;> decide)
    exact ⟨_, code, exec_of_compensationGate_error (List.mem_cons_of_mem _ gated) check error, last⟩

end Sys2Proof.Proofs

/-! # Test vectors (95_test_vectors.md): the worked examples of the three functions, stage by stage

Each lemma states a stage's values as the file's tables print them; `rounded` and V-P7's terms are not printed there. -/

namespace Sys2Proof.Proofs

open Sys2Proof.Machine Sys2Proof.Safety

/-- E1: `fine`, and `rounded`, which `tout` shifts. -/
theorem temperatureCalc_run_worked :
    (temperatureCalc 519888#20 27504#16 26435#16 (-1000#16)).run 32 false = ((128422, 642238), false) := by
  decide +kernel

/-! ### `CompP`: the terms depend on P1 to P6 and on `fine` alone, so E2 and V-P3 share them -/

/-- E2 and V-P3: `var2a` and `var1c`. -/
theorem pressureTerms_worked :
    pressureTerms 36477#16 (-10685#16) 3024#16 2855#16 140#16 (-7#16) 128422#32 =
      { var2a := 98104795527812, var1c := 597560748, ovf := false } := by
  decide +kernel

/-- V-P2: no term overflows. -/
theorem pressureTerms_ovf_zeroDivisor :
    (pressureTerms 0#16 (-10685#16) 3024#16 2855#16 140#16 (-7#16) 128422#32).ovf = false := by
  decide +kernel

/-- V-P7: the largest `fine` and the least P6 make a term overflow. -/
theorem pressureTerms_overflowing :
    pressureTerms 36477#16 (-10685#16) 3024#16 2855#16 140#16 (-32768#16) 2147483647#32 =
      { var2a := -393239461075910656, var1c := -863721941, ovf := true } := by
  decide +kernel

/-- `CompP` past its guard, from the values of its terms. -/
theorem compP_of_terms {p1 p2 p3 p4 p5 p6 : BitVec 16} {fine : BitVec 32} {v : PressureTerms}
    (terms : pressureTerms p1 p2 p3 p4 p5 p6 fine = v) (nonzero : v.var1c ≠ 0) (rawP : BitVec 20)
    (p7 p8 p9 : BitVec 16) :
    compP rawP p1 p2 p3 p4 p5 p6 p7 p8 p9 fine = pressureQuotient rawP p7 p8 p9 v nonzero := by
  subst terms
  exact compP_of_nonzero nonzero

/-! ### `CompH`: `v2`, which the clamp takes -/

/-- V-H1: `v2` lies between the clamp's ends. -/
theorem humidityCalc_run_worked :
    (humidityCalc 30000#16 75#8 362#16 0#8 313#16 50#16 30#8 128422#32).run 32 false = (230678058, false) := by
  decide +kernel

/-- V-H8: a primitive overflows, and the `v2` it wraps to is negative. -/
theorem humidityCalc_run_overflowing :
    (humidityCalc 30000#16 75#8 15390#16 0#8 445#16 47#16 30#8 128422#32).run 32 false = (-56210594, true) := by
  decide +kernel

/-- Settles O11: each example from the values of its stages; in V-P2 the divisor is 0 because P1 is. -/
theorem compensationWorkedExamples : Obligations.CompensationWorkedExamples := by
  unfold Obligations.CompensationWorkedExamples
  refine ⟨?e1, ?e2, ?vp2, ?vp3, ?vp7, ?vh1, ?vh8⟩
  case e1 =>
    rw [compT_eq_run, temperatureCalc_run_worked]
    decide
  case e2 =>
    rw [compP_of_terms pressureTerms_worked (by decide)]
    decide +kernel
  case vp2 => rw [compP_of_zero (pressureTerms_var1c_of_zero ..), pressureTerms_ovf_zeroDivisor]
  case vp3 =>
    rw [compP_of_terms pressureTerms_worked (by decide)]
    decide +kernel
  case vp7 =>
    rw [compP_of_terms pressureTerms_overflowing (by decide)]
    decide +kernel
  case vh1 =>
    rw [compH_eq_run, humidityCalc_run_worked]
    decide
  case vh8 =>
    rw [compH_eq_run, humidityCalc_run_overflowing]
    decide

end Sys2Proof.Proofs
